-- ==== Sys2Proof/Word.lean ====
section
/-! DEFINITION. The word types of the CHIP-8 core: what the spec treats as bits is a bit vector, a register number is an index. -/

namespace Sys2Proof

/-- An 8-bit value: a general register, a timer value, a memory byte, an immediate `kk` (R13, R15). -/
abbrev Byte := BitVec 8

/-- A 16-bit value: an opcode, I, PC, a stack entry (R13). -/
abbrev Word := BitVec 16

/-- One of the four 4-bit fields of an opcode (R14, R71). -/
abbrev Nibble := BitVec 4

/-- The 12-bit immediate `nnn` of an opcode (R71). -/
abbrev Addr12 := BitVec 12

/-- The index of a general register V0..VF; a 4-bit field gives no other index (R21). -/
abbrev Reg := Fin 16

/-- A logical key 0x0..0xF (R13, R35). -/
abbrev Key := Fin 16

/-- VF, register 15, the flags register (R22). -/
abbrev vF : Reg := 15

end Sys2Proof
end

