-- ==== Sys2Proof/Syntax.lean ====
section
/-! DEFINITION. The instructions: one constructor per row of the opcode map (R75), in the table's order. -/

namespace Sys2Proof

/-- One constructor per row of R75. Fields follow R71 and R73: `x`, `y` register numbers, `kk` an 8-bit
immediate, `nnn` a 12-bit address, `n` a row count 0..15. -/
inductive Instr where
  /-- `00E0` clear display, R150 -/
  | cls
  /-- `00EE` return, R110 -/
  | ret
  /-- `1nnn` jump, R111 -/
  | jp (nnn : Addr12)
  /-- `2nnn` call, R112 -/
  | call (nnn : Addr12)
  /-- `3xkk` skip if equal to immediate, R120 -/
  | seImm (x : Reg) (kk : Byte)
  /-- `4xkk` skip if not equal to immediate, R121 -/
  | sneImm (x : Reg) (kk : Byte)
  /-- `5xy0` skip if registers equal, R122 -/
  | seReg (x y : Reg)
  /-- `6xkk` load immediate, R130 -/
  | ldImm (x : Reg) (kk : Byte)
  /-- `7xkk` add immediate, R131 -/
  | addImm (x : Reg) (kk : Byte)
  /-- `8xy0` copy, R132 -/
  | ldReg (x y : Reg)
  /-- `8xy1` bitwise OR, R133 -/
  | orReg (x y : Reg)
  /-- `8xy2` bitwise AND, R134 -/
  | andReg (x y : Reg)
  /-- `8xy3` bitwise XOR, R135 -/
  | xorReg (x y : Reg)
  /-- `8xy4` add with carry flag, R136 -/
  | addReg (x y : Reg)
  /-- `8xy5` subtract, R137 -/
  | subReg (x y : Reg)
  /-- `8xy6` shift right, R138; `y` is decoded and ignored -/
  | shr (x y : Reg)
  /-- `8xy7` reverse subtract, R139 -/
  | subn (x y : Reg)
  /-- `8xyE` shift left, R140; `y` is decoded and ignored -/
  | shl (x y : Reg)
  /-- `9xy0` skip if registers differ, R123 -/
  | sneReg (x y : Reg)
  /-- `Annn` load address register, R180 -/
  | ldI (nnn : Addr12)
  /-- `Bnnn` jump with offset V0, R113 -/
  | jpV0 (nnn : Addr12)
  /-- `Cxkk` random, R141 -/
  | rnd (x : Reg) (kk : Byte)
  /-- `Dxyn` draw sprite, R151 -/
  | drw (x y : Reg) (n : Fin 16)
  /-- `Ex9E` skip if key down, R160 -/
  | skp (x : Reg)
  /-- `ExA1` skip if key not down, R161 -/
  | sknp (x : Reg)
  /-- `Fx07` read delay timer, R170 -/
  | ldVxDt (x : Reg)
  /-- `Fx0A` wait for key, R162 -/
  | ldVxK (x : Reg)
  /-- `Fx15` write delay timer, R171 -/
  | ldDtVx (x : Reg)
  /-- `Fx18` write sound timer, R172 -/
  | ldStVx (x : Reg)
  /-- `Fx1E` add to address register, R181 -/
  | addI (x : Reg)
  /-- `Fx29` font pointer, R182 -/
  | ldF (x : Reg)
  /-- `Fx33` BCD store, R183 -/
  | ldB (x : Reg)
  /-- `Fx55` register dump, R184 -/
  | storeRegs (x : Reg)
  /-- `Fx65` register load, R185 -/
  | loadRegs (x : Reg)
  /-- any other 16-bit value, R76, R95, R96 -/
  | unknown (op : Word)
deriving DecidableEq, Repr

end Sys2Proof
end

