-- ==== Sys2Proof/Decode.lean ====
section
/-! DEFINITION. The decoder, total on any 16-bit value (R74), the encoder from the same map (R75), and the byte forms (R52, R70). -/

namespace Sys2Proof

/-- nibble1 = `op[15:12]`, R14, R71. -/
def nibble1 (op : Word) : Nibble := op.extractLsb' 12 4
/-- nibble2 = `op[11:8]`. -/
def nibble2 (op : Word) : Nibble := op.extractLsb' 8 4
/-- nibble3 = `op[7:4]`. -/
def nibble3 (op : Word) : Nibble := op.extractLsb' 4 4
/-- nibble4 = `op[3:0]`. -/
def nibble4 (op : Word) : Nibble := op.extractLsb' 0 4
/-- `kk = op[7:0]`, R71. -/
def fieldKK (op : Word) : Byte := op.extractLsb' 0 8
/-- `nnn = op[11:0]`, R71. -/
def fieldNNN (op : Word) : Addr12 := op.extractLsb' 0 12

/-- A 4-bit field as a register number, a key or a row count (R73). -/
def nibbleIndex (n : Nibble) : Fin 16 := ⟨n.toNat, n.isLt⟩

/-- `x = op[11:8]`. -/
def fieldX (op : Word) : Reg := nibbleIndex (nibble2 op)
/-- `y = op[7:4]`. -/
def fieldY (op : Word) : Reg := nibbleIndex (nibble3 op)
/-- `n = op[3:0]`. -/
def fieldN (op : Word) : Fin 16 := nibbleIndex (nibble4 op)

/-- Family 0x8, keyed on nibble4 (R74, R75). -/
def decodeFamily8 (op : Word) : Instr :=
  match nibble4 op with
  | 0x0#4 => .ldReg (fieldX op) (fieldY op)
  | 0x1#4 => .orReg (fieldX op) (fieldY op)
  | 0x2#4 => .andReg (fieldX op) (fieldY op)
  | 0x3#4 => .xorReg (fieldX op) (fieldY op)
  | 0x4#4 => .addReg (fieldX op) (fieldY op)
  | 0x5#4 => .subReg (fieldX op) (fieldY op)
  | 0x6#4 => .shr (fieldX op) (fieldY op)
  | 0x7#4 => .subn (fieldX op) (fieldY op)
  | 0xE#4 => .shl (fieldX op) (fieldY op)
  | _ => .unknown op

/-- Family 0xF, keyed on the low byte (R74, R75). -/
def decodeFamilyF (op : Word) : Instr :=
  match fieldKK op with
  | 0x07#8 => .ldVxDt (fieldX op)
  | 0x0A#8 => .ldVxK (fieldX op)
  | 0x15#8 => .ldDtVx (fieldX op)
  | 0x18#8 => .ldStVx (fieldX op)
  | 0x1E#8 => .addI (fieldX op)
  | 0x29#8 => .ldF (fieldX op)
  | 0x33#8 => .ldB (fieldX op)
  | 0x55#8 => .storeRegs (fieldX op)
  | 0x65#8 => .loadRegs (fieldX op)
  | _ => .unknown op

/-- R74, R93: decoding is total, keys on nibble1 first, and reads no state. -/
def decode (op : Word) : Instr :=
  match nibble1 op with
  | 0x0#4 => if op = 0x00E0#16 then .cls else if op = 0x00EE#16 then .ret else .unknown op
  | 0x1#4 => .jp (fieldNNN op)
  | 0x2#4 => .call (fieldNNN op)
  | 0x3#4 => .seImm (fieldX op) (fieldKK op)
  | 0x4#4 => .sneImm (fieldX op) (fieldKK op)
  | 0x5#4 => if nibble4 op = 0x0#4 then .seReg (fieldX op) (fieldY op) else .unknown op
  | 0x6#4 => .ldImm (fieldX op) (fieldKK op)
  | 0x7#4 => .addImm (fieldX op) (fieldKK op)
  | 0x8#4 => decodeFamily8 op
  | 0x9#4 => if nibble4 op = 0x0#4 then .sneReg (fieldX op) (fieldY op) else .unknown op
  | 0xA#4 => .ldI (fieldNNN op)
  | 0xB#4 => .jpV0 (fieldNNN op)
  | 0xC#4 => .rnd (fieldX op) (fieldKK op)
  | 0xD#4 => .drw (fieldX op) (fieldY op) (fieldN op)
  | 0xE#4 => if fieldKK op = 0x9E#8 then .skp (fieldX op)
             else if fieldKK op = 0xA1#8 then .sknp (fieldX op) else .unknown op
  | 0xF#4 => decodeFamilyF op
  | _ => .unknown op

/-- `c ++ nnn`, format NNN of R72. -/
def encodeNNN (c : Nat) (nnn : Addr12) : Word := BitVec.ofNat 16 (c * 4096 + nnn.toNat)

/-- `c ++ x ++ kk`, formats XKK and X of R72 (in format X, `kk` is constant). -/
def encodeXKK (c : Nat) (x : Reg) (kk : Byte) : Word :=
  BitVec.ofNat 16 (c * 4096 + x.val * 256 + kk.toNat)

/-- `c ++ x ++ y ++ n`, formats XYN and XY of R72 (in format XY, `n` is constant). -/
def encodeXYN (c : Nat) (x y : Reg) (n : Fin 16) : Word :=
  BitVec.ofNat 16 (c * 4096 + x.val * 256 + y.val * 16 + n.val)

/-- The 16-bit word of an instruction, from the patterns of R75. -/
def encode : Instr → Word
  | .cls => 0x00E0
  | .ret => 0x00EE
  | .jp nnn => encodeNNN 0x1 nnn
  | .call nnn => encodeNNN 0x2 nnn
  | .seImm x kk => encodeXKK 0x3 x kk
  | .sneImm x kk => encodeXKK 0x4 x kk
  | .seReg x y => encodeXYN 0x5 x y 0x0
  | .ldImm x kk => encodeXKK 0x6 x kk
  | .addImm x kk => encodeXKK 0x7 x kk
  | .ldReg x y => encodeXYN 0x8 x y 0x0
  | .orReg x y => encodeXYN 0x8 x y 0x1
  | .andReg x y => encodeXYN 0x8 x y 0x2
  | .xorReg x y => encodeXYN 0x8 x y 0x3
  | .addReg x y => encodeXYN 0x8 x y 0x4
  | .subReg x y => encodeXYN 0x8 x y 0x5
  | .shr x y => encodeXYN 0x8 x y 0x6
  | .subn x y => encodeXYN 0x8 x y 0x7
  | .shl x y => encodeXYN 0x8 x y 0xE
  | .sneReg x y => encodeXYN 0x9 x y 0x0
  | .ldI nnn => encodeNNN 0xA nnn
  | .jpV0 nnn => encodeNNN 0xB nnn
  | .rnd x kk => encodeXKK 0xC x kk
  | .drw x y n => encodeXYN 0xD x y n
  | .skp x => encodeXKK 0xE x 0x9E
  | .sknp x => encodeXKK 0xE x 0xA1
  | .ldVxDt x => encodeXKK 0xF x 0x07
  | .ldVxK x => encodeXKK 0xF x 0x0A
  | .ldDtVx x => encodeXKK 0xF x 0x15
  | .ldStVx x => encodeXKK 0xF x 0x18
  | .addI x => encodeXKK 0xF x 0x1E
  | .ldF x => encodeXKK 0xF x 0x29
  | .ldB x => encodeXKK 0xF x 0x33
  | .storeRegs x => encodeXKK 0xF x 0x55
  | .loadRegs x => encodeXKK 0xF x 0x65
  | .unknown op => op

/-- R52: `opcode = MEM[pc] ++ MEM[pc+1]`, the byte at the lower address is `op[15:8]`. -/
def bigEndian (hi lo : Byte) : Word := BitVec.ofNat 16 (hi.toNat * 256 + lo.toNat)

/-- `op[15:8]`, the byte stored at the lower address. -/
def highByte (op : Word) : Byte := op.extractLsb' 8 8

/-- `op[7:0]`, the byte stored at the higher address. -/
def lowByte (op : Word) : Byte := op.extractLsb' 0 8

/-- Why a byte string holds no instruction: fewer than the two bytes every instruction has (R70). -/
inductive DecodeError where
  | truncated
deriving DecidableEq, Repr

/-- The instruction at the front of a byte string, and the rest of the string (R70, R79). -/
def decodeBytes : List Byte → Except DecodeError (Instr × List Byte)
  | hi :: lo :: rest => .ok (decode (bigEndian hi lo), rest)
  | _ => .error .truncated

/-- The two bytes of an instruction, high byte first (R70). -/
def encodeBytes (i : Instr) : List Byte := [highByte (encode i), lowByte (encode i)]

/-- The 16-bit word that `nbits` bits of the opcode table stand for; every bit above them is 0. -/
def tableWord (nbits w : Nat) : Word := BitVec.ofNat 16 (w % 2 ^ nbits)

/-- What the decoder reads from an instruction numbered as the opcode table numbers it. -/
def decodeTableWord (nbits w : Nat) : Option Instr :=
  match decodeBytes [highByte (tableWord nbits w), lowByte (tableWord nbits w)] with
  | .ok (i, _) => some i
  | .error _ => none

end Sys2Proof
end

