-- ==== Sys2Proof/Config.lean ====
section
/-! DEFINITION. The configuration record `Cfg` (R5 to R12, R30), its defaults, and the model's free values. -/

namespace Sys2Proof

/-- R8: what the engine does with an opcode that matches no instruction. -/
inductive UnknownPolicy where
  | fatal
  | continue
deriving DecidableEq, Repr

/-- R11: how many logical keys, counted from key 0, the wait-for-key instruction scans: 15 or 16. -/
inductive KeyScan where
  | first15
  | all16
deriving DecidableEq, Repr

/-- `KEY_SCAN_COUNT` as a number (R11). -/
def KeyScan.count : KeyScan → Nat
  | .first15 => 15
  | .all16 => 16

/-- R12, R218: the number format of the two timer accumulators. `rounded` stands for every finite
floating format: its rounding function is the free value `Config.accRound`. -/
inductive AccFormat where
  | exact
  | rounded
deriving DecidableEq, Repr

/-- R30: the read-only configuration record. It is fixed at creation; no step changes it. -/
structure Cfg where
  /-- `MEM_SIZE`, R5 -/
  memSize : Nat
  /-- `PROGRAM_ADDRESS`, R6 -/
  programAddress : Nat
  /-- `DISPLAY_WIDTH`, R7 -/
  displayWidth : Nat
  /-- `DISPLAY_HEIGHT`, R7 -/
  displayHeight : Nat
  /-- `UNKNOWN_POLICY`, R8 -/
  unknownPolicy : UnknownPolicy
  /-- `CLOCK_RATE`, R9: no rule of the core reads it -/
  clockRate : Rat
  /-- `FONT_TABLE`, R10, R57 -/
  fontTable : List Byte
  /-- `KEY_SCAN_COUNT`, R11 -/
  keyScan : KeyScan
  /-- `ACC_FORMAT`, R12 -/
  accFormat : AccFormat
deriving DecidableEq, Repr

namespace Config

/-- `FONT_BYTES`, R10. -/
def fontBytes : Nat := 80

/-- `GLYPH_BYTES`, R10. -/
def glyphBytes : Nat := 5

/-- The default glyphs of the digits 0 to 7 (R57; PRESUMED there, log entry 4). -/
def glyphs0to7 : List Byte :=
  [0xF0, 0x90, 0x90, 0x90, 0xF0] ++ [0x20, 0x60, 0x20, 0x20, 0x70] ++
  [0xF0, 0x10, 0xF0, 0x80, 0xF0] ++ [0xF0, 0x10, 0xF0, 0x10, 0xF0] ++
  [0x90, 0x90, 0xF0, 0x10, 0x10] ++ [0xF0, 0x80, 0xF0, 0x10, 0xF0] ++
  [0xF0, 0x80, 0xF0, 0x90, 0xF0] ++ [0xF0, 0x10, 0x20, 0x40, 0x40]

/-- The default glyphs of the digits 8 to F (R57). -/
def glyphs8toF : List Byte :=
  [0xF0, 0x90, 0xF0, 0x90, 0xF0] ++ [0xF0, 0x90, 0xF0, 0x10, 0xF0] ++
  [0xF0, 0x90, 0xF0, 0x90, 0x90] ++ [0xE0, 0x90, 0xE0, 0x90, 0xE0] ++
  [0xF0, 0x80, 0x80, 0x80, 0xF0] ++ [0xE0, 0x90, 0x90, 0x90, 0xE0] ++
  [0xF0, 0x80, 0xF0, 0x80, 0xF0] ++ [0xF0, 0x80, 0xF0, 0x80, 0x80]

/-- `FONT_TABLE`'s default, R57. -/
def defaultFont : List Byte := glyphs0to7 ++ glyphs8toF

/-- The configuration of `State.reset`: the spec's defaults (R5 to R7, R10 to R12), and for the two
parameters the spec gives no default, `UNKNOWN_POLICY` and `CLOCK_RATE`, the DESIGN CHOICE of log entry 3. -/
def defaultCfg : Cfg :=
  { memSize := 4096, programAddress := 0x200, displayWidth := 64, displayHeight := 32,
    unknownPolicy := .fatal, clockRate := 1, fontTable := defaultFont,
    keyScan := .all16, accFormat := .exact }

/-- FREE VALUE (log entry 5). The random source's byte at its n-th use: any value, under no law (R37, R141, R223). -/
opaque randByte : Nat → Byte

/-- FREE VALUE (log entry 6). What a sprite draw leaves in the display's dirty flag: the spec names the flag
(R34) and does not say what `draw_sprite` does to it. -/
opaque dirtyAfterDraw : Nat → Bool

/-- FREE VALUE (log entry 7). The rounding function of a floating `ACC_FORMAT` (R12, R218). -/
opaque accRound : Rat → Rat

end Config

/-- R5 to R10, R244: the constraints a legal configuration meets. -/
structure Cfg.Valid (c : Cfg) : Prop where
  memSize_le : c.memSize ≤ 65536
  font_fits : Config.fontBytes ≤ c.memSize
  program_even : c.programAddress % 2 = 0
  program_above_font : Config.fontBytes ≤ c.programAddress
  program_fits : c.programAddress + 2 ≤ c.memSize
  width_ge : 8 ≤ c.displayWidth
  height_ge : 1 ≤ c.displayHeight
  clock_pos : 0 < c.clockRate
  font_length : c.fontTable.length = Config.fontBytes

end Sys2Proof
end

