-- ==== Sys2Proof/Machine/State.lean ====
section
/-! DEFINITION. The machine's state as plain data (R20, R31 to R36), the reasons it stops, and its value at creation (R40). -/

namespace Sys2Proof.Machine

/-- The kinds of fault a step raises (R200 to R206), with the extra value codes 6 and 7 record (D38). -/
inductive FaultKind where
  /-- R200, raised by an unknown opcode under the fatal policy -/
  | illegalOpcode
  /-- R201, raised by `00EE` with SP = 0 -/
  | stackUnderflow
  /-- R202, raised by `2nnn` with SP = 15 -/
  | stackOverflow
  /-- R203, raised by a fetch at an odd PC -/
  | pcMisaligned
  /-- R204, raised by a fetch with `pc + 1 >= MEM_SIZE` -/
  | fetchOutOfRange
  /-- R205, raised by `Dxyn`, `Fx33`, `Fx55`, `Fx65`; the highest address the instruction would touch -/
  | memOutOfRange (addr : Nat)
  /-- R206, raised by `Ex9E`, `ExA1`; the value of Vx -/
  | keyOutOfRange (key : Byte)
deriving DecidableEq, Repr

/-- `Faulted(kind, opcode, pc)` of R31; a fetch fault has no opcode (R203, R204). -/
structure FaultRecord where
  kind : FaultKind
  opcode : Option Word
  pc : Word
deriving DecidableEq, Repr

/-- The lifecycle field of R31. -/
inductive Status where
  | unloaded
  | running
  | faulted (r : FaultRecord)
deriving DecidableEq, Repr

/-- The elapsed time a step is given (R90): a number of milliseconds, or a value that is not a finite number,
which R100 has the step refuse. -/
inductive ElapsedMs where
  | finite (ms : Rat)
  | nonFinite
deriving DecidableEq, Repr

/-- A pixel of the display by column and row, the index pair of `PIX[px][py]` (R34). -/
structure Pixel where
  x : Nat
  y : Nat
deriving DecidableEq, Repr

/-- One record of the log output: the opcode and the PC (R90, R95). -/
structure LogRecord where
  opcode : Word
  pc : Word
deriving DecidableEq, Repr

/-- What the host does between two calls of `step` (R245): it may load a ROM, flush the speaker and handle the
dirty flag; it sets the key levels and passes the elapsed time of the coming step. -/
structure HostTurn where
  /-- the ROM handed to `load_rom`, if it is called (R242) -/
  rom : Option (List Byte)
  /-- whether the pending beep is flushed (R36, R245) -/
  flushSpeaker : Bool
  /-- what the driver leaves in the dirty flag, `none` if it does not touch it (R34, log entry 6) -/
  dirty : Option Bool
  /-- `KEY[0..15]` during the coming step (R35) -/
  keys : Vector Bool 16
  /-- `delta_ms` of the coming step (R90) -/
  elapsed : ElapsedMs
deriving DecidableEq, Repr

/-- `MEM`, R33: the bytes that are not 0, addresses rising. -/
abbrev Memory := List Host.Cell

/-- `PIX`, R34: the pixels that are 1, in row order. -/
abbrev Pixels := List Pixel

/-- Why a `load_rom` fails (R243), with the exact sizes R207 asks for. -/
inductive LoadError where
  | romTooShort (len : Nat)
  | romTooLarge (len room : Nat)
deriving DecidableEq, Repr

/-- Why creation fails (R9, R207): "non-positive clock rate". -/
inductive SetupError where
  | nonPositiveClockRate
deriving DecidableEq, Repr

/-- Why the machine stops. -/
inductive Fault where
  /-- raised by `step` in `Faulted`: R100 and R211 say that no step exists there. Safe: the spec's machine is stuck too -/
  | engineFaulted (r : FaultRecord)
  /-- raised by `step` when the `load_rom` of the host's turn fails: R207 and R243 call it fatal. Safe -/
  | loadFailed (e : LoadError)
  /-- raised by `00EE` with SP above 15, where `STACK[SP]` does not exist (R20, R26). Safe: R26 shows that no run reaches it -/
  | noStackSlot (sp : Byte)
deriving DecidableEq, Repr

/-- What the model gives no meaning. -/
inductive Refusal where
  /-- an instruction without a meaning: no arm of `exec` answers it. Safe -/
  | notModelled (mnemonic : String)
  /-- raised by `step` in `Unloaded`: R100 refuses a step whose PC is undefined. Safe: the spec refuses it too -/
  | notLoaded
  /-- raised by `step` given a negative or non-finite elapsed time, which R100 refuses. Safe: the spec refuses it too -/
  | badElapsed
deriving DecidableEq, Repr

/-- The state of the core (R20), of its collaborators as the core's rules touch them (R33 to R37), the inputs of
the coming step (R90), and the model's own counter of free values. -/
structure State where
  /-- the configuration (R30), fixed at creation -/
  cfg : Cfg
  /-- `V[0..15]`, R21 -/
  v : Vector Byte 16
  /-- `I`, R23 -/
  i : Word
  /-- `pc`, R24 -/
  pc : Word
  /-- `STACK[0..15]`, R25 -/
  stack : Vector Word 16
  /-- `SP`, R26 -/
  sp : Byte
  /-- `DT`, R27 -/
  dt : Byte
  /-- `DTA`, R27 -/
  dta : Rat
  /-- `ST`, R28 -/
  st : Byte
  /-- `STA`, R28 -/
  sta : Rat
  /-- `status`, R31 -/
  status : Status
  /-- `MEM`, R33 -/
  mem : Memory
  /-- `PIX`, R34 -/
  pix : Pixels
  /-- the display's dirty flag, R34 -/
  dirty : Bool
  /-- `KEY[0..15]`, R35 -/
  keys : Vector Bool 16
  /-- the speaker's pending-beep flag, R36 -/
  beepPending : Bool
  /-- the log output of all steps so far, oldest first, R90, R95 -/
  log : List LogRecord
  /-- `delta_ms` of the coming step, R90 -/
  elapsed : ElapsedMs
  /-- what the host will do before each of the coming steps, R245; log entry 8 -/
  hostTurns : List HostTurn
  /-- MODEL: how many free values have been drawn; log entry 5 -/
  freeCount : Nat
deriving DecidableEq, Repr

/-- R40, R240: the state right after creation with the configuration `c`. PC is "undefined": its
value, the key levels, the elapsed time and the dirty flag here are DESIGN CHOICES, log entries 1, 6 and 8. -/
def State.created (c : Cfg) : State :=
  { cfg := c, v := Vector.replicate 16 0, i := 0, pc := 0, stack := Vector.replicate 16 0, sp := 0,
    dt := 0, dta := 0, st := 0, sta := 0, status := .unloaded, mem := [], pix := [], dirty := false,
    keys := Vector.replicate 16 false, beepPending := false, log := [], elapsed := .finite 0,
    hostTurns := [], freeCount := 0 }

/-- R240: creation is the only reset. -/
def State.reset : State := State.created Config.defaultCfg

end Sys2Proof.Machine
end

