-- ==== Sys2Proof/Machine/Ops.lean ====
section
/-! DEFINITION. The named operations over registers, PC, stack, memory and display, and taking a fault (R210). -/

namespace Sys2Proof.Machine

/-- What a meaning answers. -/
abbrev Res := Host.Outcome State Fault Refusal

/-! ## Memory (R50, R51) -/

/-- What an address that no entry lists reads as: the value `clear()` leaves (R51; DESIGN CHOICE, log entry 2, for memory before
the first `load_rom`). -/
def Memory.unlisted : Byte := 0

/-- `MEM[a]`. -/
def Memory.read : Memory → Nat → Byte
  | [], _ => Memory.unlisted
  | (k, b) :: r, a => if k = a then b else Memory.read r a

/-- `MEM[a] <- b`, keeping the canonical form. -/
def Memory.write : Memory → Nat → Byte → Memory
  | [], a, b => if b = Memory.unlisted then [] else [(a, b)]
  | (k, c) :: r, a, b =>
    if a < k then (if b = Memory.unlisted then (k, c) :: r else (a, b) :: (k, c) :: r)
    else if a = k then (if b = Memory.unlisted then r else (a, b) :: r)
    else (k, c) :: Memory.write r a b

/-- `Memory.clear()`: every byte 0 (R51). -/
def Memory.clear : Memory := []

/-- Byte writes at `a, a+1, ...` in ascending order (R53). -/
def Memory.writeBytes : Memory → Nat → List Byte → Memory
  | m, _, [] => m
  | m, a, b :: r => Memory.writeBytes (Memory.write m a b) (a + 1) r

/-- Byte reads at `a, a+1, ..., a+n-1` in ascending order (R53). -/
def Memory.readBytes (m : Memory) : Nat → Nat → List Byte
  | _, 0 => []
  | a, n + 1 => Memory.read m a :: Memory.readBytes m (a + 1) n

/-- The canonical form: addresses strictly rising, no entry equal to the unlisted byte. -/
def Memory.wf : Memory → Bool
  | [] => true
  | c :: r => c.2 != Memory.unlisted && r.all (fun d => decide (c.1 < d.1)) && Memory.wf r

/-- Every listed address is below `size` (R50). -/
def Memory.below (m : Memory) (size : Nat) : Bool := m.all fun c => decide (c.1 < size)

/-- The byte of memory at an address. -/
def State.byteAt (s : State) (a : Nat) : Byte := Memory.read s.mem a

/-- A new memory. -/
def State.setMem (s : State) (m : Memory) : State := { s with mem := m }

/-! ## Registers, I and PC (R21, R23, R24) -/

/-- `V[r]`. -/
def State.readV (s : State) (r : Reg) : Byte := s.v[r.val]

/-- `V[r] <- b`. -/
def State.writeV (s : State) (r : Reg) (b : Byte) : State := { s with v := s.v.set r.val b }

/-- `I <- w`. -/
def State.setI (s : State) (w : Word) : State := { s with i := w }

/-- `pc <- w`. -/
def State.setPc (s : State) (w : Word) : State := { s with pc := w }

/-- `pc <- (pc + 2) mod 65536`, R94. -/
def State.advance (s : State) : State := s.setPc (s.pc + 2)

/-- `pc <- pc + 4` when the condition holds, `pc + 2` otherwise, R94, R124. -/
def State.skipIf (s : State) (c : Bool) : State := s.setPc (if c then s.pc + 4 else s.pc + 2)

/-- The registers a dump or load moves, in the order of the loop: V0 up to and including Vx (R184, R185). -/
def allRegs : List Reg := [0, 1, 2, 3, 4, 5, 6, 7] ++ [8, 9, 10, 11, 12, 13, 14, 15]

/-- The loop of R185: `V[r] <- MEM[base + r]` for the listed registers, in order. -/
def loadLoop (m : Memory) (base : Nat) : List Reg → Vector Byte 16 → Vector Byte 16
  | [], v => v
  | r :: rs, v => loadLoop m base rs (v.set r.val (Memory.read m (base + r.val)))

/-! ## The call stack (R25, R26) -/

/-- `STACK[k]`, if there is such a slot. -/
def State.stackAt (s : State) (k : Nat) : Option Word := s.stack[k]?

/-- R112: `SP <- SP + 1; STACK[SP] <- w`. -/
def State.push (s : State) (w : Word) : State :=
  { s with sp := s.sp + 1, stack := s.stack.setIfInBounds (s.sp.toNat + 1) w }

/-- R110: `SP <- SP - 1`; the popped slot keeps its value. -/
def State.drop (s : State) : State := { s with sp := s.sp - 1 }

/-! ## Timers (R27, R28) -/

/-- R171: the delay timer and its accumulator take the same integer. -/
def State.setDelay (s : State) (b : Byte) : State := { s with dt := b, dta := (b.toNat : Rat) }

/-- R172: the sound timer and its accumulator take the same integer. -/
def State.setSound (s : State) (b : Byte) : State := { s with st := b, sta := (b.toNat : Rat) }

/-! ## Log (R95) -/

/-- `Log(op, pc)`; the output kept as a list is a DESIGN CHOICE, log entry 10. -/
def State.addLog (s : State) (op : Word) : State := { s with log := s.log ++ [⟨op, s.pc⟩] }

/-! ## Display (R34, R152) -/

/-- Row order: rows from the top, columns from the left. -/
def Pixel.before (p q : Pixel) : Bool := decide (p.y < q.y) || (p.y == q.y && decide (p.x < q.x))

/-- `PIX[px][py] = 1`. -/
def Pixels.lit (d : Pixels) (p : Pixel) : Bool := d.contains p

/-- `PIX[px][py] <- PIX[px][py] ^ 1`, keeping the row order. -/
def Pixels.toggle : Pixels → Pixel → Pixels
  | [], p => [p]
  | q :: r, p => if p = q then r else if p.before q then p :: q :: r else q :: Pixels.toggle r p

/-- The canonical form: strictly in row order. -/
def Pixels.wf : Pixels → Bool
  | [] => true
  | p :: r => r.all (fun q => p.before q) && Pixels.wf r

/-- Every listed pixel lies on the grid. -/
def Pixels.within (d : Pixels) (w h : Nat) : Bool := d.all fun p => decide (p.x < w) && decide (p.y < h)

/-- One set bit of a sprite in R152's loop: the collision bit, then the pixel. -/
def xorPixel (p : Pixel) (a : Pixels × Bool) : Pixels × Bool :=
  (Pixels.toggle a.1 p, a.2 || Pixels.lit a.1 p)

/-- The columns of a sprite row, column 0 leftmost (R152). -/
def spriteColumns : List Nat := [0, 1, 2, 3, 4, 5, 6, 7]

/-- One row of R152's loop at display row `y`, bit 7 of the byte being column 0, wrapping each column modulo `w`. -/
def drawRow (w vx y : Nat) (row : Byte) (a : Pixels × Bool) : Pixels × Bool :=
  spriteColumns.foldl
    (fun acc col => if row.getLsbD (7 - col) then xorPixel ⟨(vx + col) % w, y⟩ acc else acc) a

/-- R152's loop over the rows, wrapping each row modulo `h`. -/
def drawRows (w h vx : Nat) : Nat → List Byte → Pixels × Bool → Pixels × Bool
  | _, [], a => a
  | vy, row :: rest, a => drawRows w h vx (vy + 1) rest (drawRow w vx (vy % h) row a)

/-- `Display.draw_sprite(vx, vy, rows)`: the new grid and the collision bit (R152). -/
def drawSprite (c : Cfg) (d : Pixels) (vx vy : Byte) (rows : List Byte) : Pixels × Bool :=
  drawRows c.displayWidth c.displayHeight vx.toNat vy.toNat rows (d, false)

/-- `Display.clear()`: every pixel 0, the dirty flag set (R152). -/
def State.clearDisplay (s : State) : State := { s with pix := [], dirty := true }

/-- The grid a draw leaves; what it leaves in the dirty flag is a free value (log entry 6). -/
def State.drawn (s : State) (d : Pixels) : State :=
  { s with pix := d, dirty := Config.dirtyAfterDraw s.freeCount, freeCount := s.freeCount + 1 }

/-! ## Random source (R37, R223) -/

/-- `Rand.byte()` uses up one free value (log entry 5). -/
def State.nextFree (s : State) : State := { s with freeCount := s.freeCount + 1 }

/-! ## Keypad (R35, R221) -/

/-- `Keypad.is_down(k)`. -/
def State.isDown (s : State) (k : Key) : Bool := s.keys[k.val]

/-! ## Faults (R99, R209, R210) -/

/-- The spec's own numbers of the fault kinds (R200 to R206, D38). -/
def FaultKind.code : FaultKind → Nat
  | .illegalOpcode => 1
  | .stackUnderflow => 2
  | .stackOverflow => 3
  | .pcMisaligned => 4
  | .fetchOutOfRange => 5
  | .memOutOfRange _ => 6
  | .keyOutOfRange _ => 7

/-- TAKING A FAULT, R210: `raise K(info)` writes `status <- Faulted(K, opcode, pc)` with the address of the faulting
instruction, and nothing else. There is no handler and no return from a fault (R211); DEDUCED, log entry 11: the
faulted state is a next state, from which `step` stops. -/
def raise (k : FaultKind) (op : Option Word) (s : State) : State :=
  { s with status := .faulted ⟨k, op, s.pc⟩ }

end Sys2Proof.Machine
end

