-- ==== Sys2Proof/Machine/HostSide.lean ====
section
/-! DEFINITION. What the host does outside a step: creation, `load_rom`, and its turn before a step (R240 to R246). -/

namespace Sys2Proof.Machine

/-- R240, R244: create an engine; a non-positive clock rate is a configuration error (R9, R207). The other constraints
on a configuration are premises of claims, `Cfg.Valid` (DEDUCED, log entry 18). -/
def createEngine (c : Cfg) : Except SetupError State :=
  if c.clockRate ≤ 0 then .error .nonPositiveClockRate else .ok (State.created c)

/-- The bytes `load_rom` can place: `MEM_SIZE - PROGRAM_ADDRESS` (R242, R243). -/
def romRoom (c : Cfg) : Nat := c.memSize - c.programAddress

/-- The memory a successful `load_rom` leaves: cleared, then the font at 0, then the ROM (R56, R242). -/
def loadedMemory (c : Cfg) (rom : List Byte) : Memory :=
  Memory.writeBytes (Memory.writeBytes Memory.clear 0 (c.fontTable.take Config.fontBytes)) c.programAddress rom

/-- `load_rom(bytes)`, R242, R243: the checks come before any write. -/
def loadRom (rom : List Byte) (s : State) : Except LoadError State :=
  if rom.length < 2 then .error (.romTooShort rom.length)
  else if romRoom s.cfg < rom.length then .error (.romTooLarge rom.length (romRoom s.cfg))
  else .ok { s with mem := loadedMemory s.cfg rom, pc := BitVec.ofNat 16 s.cfg.programAddress, status := .running }

/-- `load_rom` if the host calls it in this turn. -/
def loadIfAsked (rom : Option (List Byte)) (s : State) : Except LoadError State :=
  match rom with
  | none => .ok s
  | some bytes => loadRom bytes s

/-- The rest of a turn: the speaker's flush, the driver's dirty flag, the key levels and the coming elapsed time (R245). -/
def State.hostSettings (s : State) (t : HostTurn) : State :=
  { s with beepPending := s.beepPending && !t.flushSpeaker, dirty := t.dirty.getD s.dirty,
           keys := t.keys, elapsed := t.elapsed }

/-- One turn of the host. -/
def applyTurn (t : HostTurn) (s : State) : Except LoadError State :=
  match loadIfAsked t.rom s with
  | .ok r => .ok (r.hostSettings t)
  | .error e => .error e

/-- What happens before a step: the next turn that is listed; when none is, key levels and elapsed time stand as
they are (DESIGN CHOICE, log entry 8). -/
def hostTurn (s : State) : Except LoadError State :=
  match s.hostTurns with
  | [] => .ok s
  | t :: rest => applyTurn t { s with hostTurns := rest }

end Sys2Proof.Machine
end

