-- ==== Sys2Proof/Machine/Timers.lean ====
section
/-! DEFINITION. The timer phase of a step (R97, R213 to R218). -/

namespace Sys2Proof.Machine

/-- R213: `u = delta_ms * 60 / 1000`; under a floating format each operation is rounded (R218, log entry 7). -/
def timerUnits (f : AccFormat) (ms : Rat) : Rat :=
  match f with
  | .exact => ms * 60 / 1000
  | .rounded => max 0 (Config.accRound (Config.accRound (ms * 60) / 1000))

/-- R214, R215: `acc <- max(0, acc - u)`; under a floating format the difference is rounded and, since rounding
keeps the order of numbers and `acc` is a number of the format, never above `acc` (R218, log entry 7). -/
def decay (f : AccFormat) (acc u : Rat) : Rat :=
  match f with
  | .exact => max 0 (acc - u)
  | .rounded => min acc (max 0 (Config.accRound (acc - u)))

/-- R214: the delay timer's value is the floor of its accumulator. -/
def delayValue (acc : Rat) : Byte := BitVec.ofInt 8 acc.floor

/-- R215: the sound timer's value is the ceiling of its accumulator. -/
def soundValue (acc : Rat) : Byte := BitVec.ofInt 8 acc.ceil

/-- R216: `st_before > 0 and ST = 0`. -/
def beeps (before after : Byte) : Bool := before != 0 && after == 0

/-- `Speaker.queue_beep()` when asked for: a request before the flush is absorbed by the flag (R222; log entry 15). -/
def State.queueBeepIf (s : State) (c : Bool) : State := { s with beepPending := s.beepPending || c }

/-- The delay timer's half of the phase, R214. -/
def State.decayDelay (s : State) (u : Rat) : State :=
  { s with dta := decay s.cfg.accFormat s.dta u, dt := delayValue (decay s.cfg.accFormat s.dta u) }

/-- The sound timer's half of the phase, R215. -/
def State.decaySound (s : State) (u : Rat) : State :=
  { s with sta := decay s.cfg.accFormat s.sta u, st := soundValue (decay s.cfg.accFormat s.sta u) }

/-- `TimerPhase(delta_ms)`, R97: R214, then R215, then R216 with `st_before` taken before the decay. -/
def timerPhase (ms : Rat) (s : State) : State :=
  let u := timerUnits s.cfg.accFormat ms
  let t := (s.decayDelay u).decaySound u
  t.queueBeepIf (beeps s.st t.st)

end Sys2Proof.Machine
end

