-- ==== Sys2Proof/Machine/Cycle.lean ====
section
/-! DEFINITION. The step cycle (R91): fetch (R92), the phases around execute (R97, R99, R100), and placing a program word. -/

namespace Sys2Proof.Machine

/-- Whether a fetch at `pc` succeeds (R92). -/
def fetchable (c : Cfg) (pc : Word) : Bool := !pc.getLsbD 0 && decide (pc.toNat + 1 < c.memSize)

/-- `Fetch()`, R92: the alignment check first; `pc + 1` does not wrap (R63). -/
def fetch (s : State) : Except FaultKind Word :=
  if s.pc.getLsbD 0 then .error .pcMisaligned
  else if s.cfg.memSize ≤ s.pc.toNat + 1 then .error .fetchOutOfRange
  else .ok (bigEndian (s.byteAt s.pc.toNat) (s.byteAt (s.pc.toNat + 1)))

/-- The state a step ends in, from the state Execute leaves: the timer phase runs when no fault was raised (R97),
nothing more happens after a fault (R99). -/
def endOfStep (ms : Rat) (t : State) : State :=
  match t.status with
  | .faulted _ => t
  | .unloaded => timerPhase ms t
  | .running => timerPhase ms t

/-- What follows Execute. -/
def afterExecute (ms : Rat) : Res → Res
  | .next t => .next (endOfStep ms t)
  | .fault r => .fault r
  | .refused r => .refused r

/-- Fetch, decode, execute, timer phase, in this order (R91); a fetch fault has no opcode (R203, R204). -/
def fetchExecute (exec : Instr → State → Res) (ms : Rat) (s : State) : Res :=
  match fetch s with
  | .error k => .next (raise k none s)
  | .ok op => afterExecute ms (exec (decode op) s)

/-- One call of the engine's `step`, with the preconditions of R100. -/
def engineStep (exec : Instr → State → Res) (s : State) : Res :=
  match s.status with
  | .unloaded => .refused .notLoaded
  | .faulted r => .fault (.engineFaulted r)
  | .running =>
    match s.elapsed with
    | .nonFinite => .refused .badElapsed
    | .finite ms => if ms < 0 then .refused .badElapsed else fetchExecute exec ms s

/-- The host's turn and then one call of `step`; `Faulted` is permanent, so no turn is taken there (R31, R211). A
failed load stops the machine (DEDUCED, log entry 13). -/
def cycle (exec : Instr → State → Res) (s : State) : Res :=
  match s.status with
  | .faulted r => .fault (.engineFaulted r)
  | .unloaded | .running =>
    match hostTurn s with
    | .error e => .fault (.loadFailed e)
    | .ok t => engineStep exec t

/-- An elapsed time a step accepts (R100). -/
def ElapsedMs.orZero : ElapsedMs → ElapsedMs
  | .finite ms => if ms < 0 then .finite 0 else .finite ms
  | .nonFinite => .finite 0

/-- Where a program word is placed so that the next step fetches it: at PC where the engine runs and can fetch there,
else at `PROGRAM_ADDRESS`, where `load_rom` starts a program (R242; log entry 9). -/
def State.placementPc (s : State) : Word :=
  if s.status = .running ∧ fetchable s.cfg s.pc = true then s.pc else BitVec.ofNat 16 s.cfg.programAddress

/-- The state with `op` stored where the next step fetches, and the engine running (log entry 9). -/
def State.placeWord (s : State) (op : Word) : State :=
  { s with
    pc := s.placementPc
    mem := Memory.writeBytes s.mem s.placementPc.toNat [highByte op, lowByte op]
    status := .running, hostTurns := [], elapsed := s.elapsed.orZero }

end Sys2Proof.Machine
end

