-- ==== Sys2Proof/Machine/Flags.lean ====
section
/-! DEFINITION. The flag computations of VF (R22, R142, R143): each from the operands before the instruction. -/

namespace Sys2Proof.Machine

/-- A flag as the byte VF holds: 1 or 0 (R22). -/
def flagByte (c : Bool) : Byte := if c then 1 else 0

/-- Carry out of bit 7: `a + b > 255` (R136). -/
def carryFlag (a b : Byte) : Bool := decide (255 < a.toNat + b.toNat)

/-- The strict comparison of `8xy5` and, with its operands swapped, of `8xy7`: `a > b` (R137, R139). -/
def greaterFlag (a b : Byte) : Bool := decide (b.toNat < a.toNat)

/-- The bit `8xy6` shifts out: `a[0]` (R138). -/
def lowBitFlag (a : Byte) : Bool := a.getLsbD 0

/-- The bit `8xyE` shifts out: `a[7]` (R140). -/
def highBitFlag (a : Byte) : Bool := a.getLsbD 7

/-- R142: the result goes to Vx first and the flag to VF last, so VF ends holding the flag when x = F. -/
def State.writeResult (s : State) (x : Reg) (result : Byte) (flag : Bool) : State :=
  (s.writeV x result).writeV vF (flagByte flag)

end Sys2Proof.Machine
end

