-- ==== Sys2Proof/Machine/Alu.lean ====
section
/-! DEFINITION. Register loads, the arithmetic family and the random byte (R130 to R143). -/

namespace Sys2Proof.Machine

/-- `6xkk`, R130. -/
def execLdImm (x : Reg) (kk : Byte) (s : State) : Res := .next (s.writeV x kk).advance

/-- `7xkk`, R131: VF is not a flag here. -/
def execAddImm (x : Reg) (kk : Byte) (s : State) : Res := .next (s.writeV x (s.readV x + kk)).advance

/-- `8xy0`, R132. -/
def execLdReg (x y : Reg) (s : State) : Res := .next (s.writeV x (s.readV y)).advance

/-- `8xy1`, R133. -/
def execOrReg (x y : Reg) (s : State) : Res := .next (s.writeV x (s.readV x ||| s.readV y)).advance

/-- `8xy2`, R134. -/
def execAndReg (x y : Reg) (s : State) : Res := .next (s.writeV x (s.readV x &&& s.readV y)).advance

/-- `8xy3`, R135. -/
def execXorReg (x y : Reg) (s : State) : Res := .next (s.writeV x (s.readV x ^^^ s.readV y)).advance

/-- `8xy4`, R136. -/
def execAddReg (x y : Reg) (s : State) : Res :=
  .next (s.writeResult x (s.readV x + s.readV y) (carryFlag (s.readV x) (s.readV y))).advance

/-- `8xy5`, R137. -/
def execSubReg (x y : Reg) (s : State) : Res :=
  .next (s.writeResult x (s.readV x - s.readV y) (greaterFlag (s.readV x) (s.readV y))).advance

/-- `8xy6`, R138: `y` is ignored. -/
def execShr (x _y : Reg) (s : State) : Res :=
  .next (s.writeResult x (s.readV x >>> 1) (lowBitFlag (s.readV x))).advance

/-- `8xy7`, R139. -/
def execSubn (x y : Reg) (s : State) : Res :=
  .next (s.writeResult x (s.readV y - s.readV x) (greaterFlag (s.readV y) (s.readV x))).advance

/-- `8xyE`, R140: `y` is ignored. -/
def execShl (x _y : Reg) (s : State) : Res :=
  .next (s.writeResult x (s.readV x <<< 1) (highBitFlag (s.readV x))).advance

/-- `Cxkk`, R141: the random byte is a free value. -/
def execRnd (x : Reg) (kk : Byte) (s : State) : Res :=
  .next (s.nextFree.writeV x (Config.randByte s.freeCount &&& kk)).advance

end Sys2Proof.Machine
end

