-- ==== Sys2Proof/Machine/Operands.lean ====
section
/-! DEFINITION. The operand forms: immediates, the address forms over I and V0, the key named by Vx, the register range, the decimal digits. -/

namespace Sys2Proof.Machine

/-- `zext_16(nnn)`, R73. -/
def zextAddr (nnn : Addr12) : Word := nnn.setWidth 16

/-- `zext_16(V[x])`, R113, R181. -/
def zextByte (b : Byte) : Word := b.setWidth 16

/-- The jump target of `Bnnn`: `(zext_16(nnn) + zext_16(V[0])) mod 65536`, R113. -/
def offsetTarget (nnn : Addr12) (s : State) : Word := zextAddr nnn + zextByte (s.readV 0)

/-- The font address `zext_16(V[x]) * 5`, R182: no mask, no base. -/
def fontAddress (b : Byte) : Word := BitVec.ofNat 16 (b.toNat * Config.glyphBytes)

/-- The base of every data access: I as a natural number (R63). -/
def State.base (s : State) : Nat := s.i.toNat

/-- The highest of the `len` addresses `I, I+1, ...`, computed without wrap (R63). -/
def State.highest (s : State) (len : Nat) : Nat := s.base + len - 1

/-- R51, R151, R183 to R185: every one of the `len` bytes at I lies in Memory; no byte is asked for when `len = 0`. -/
def State.rangeOk (s : State) (len : Nat) : Bool := decide (len = 0) || decide (s.highest len < s.cfg.memSize)

/-- The one check of a memory instruction, made before its first read or write (R205, D41): the effect when its
`len` bytes lie in Memory, the fault otherwise. -/
def withRange (len : Nat) (op : Word) (s : State) (effect : State) : Res :=
  .next (if s.rangeOk len then effect else raise (.memOutOfRange (s.highest len)) (some op) s)

/-- The registers V0 up to and including Vx, ascending (R184, R185). -/
def regsUpTo (x : Reg) : List Reg := allRegs.take (x.val + 1)

/-- The bytes `Fx55` stores, in order (R184). -/
def dumpBytes (x : Reg) (s : State) : List Byte := (regsUpTo x).map s.readV

/-- `I <- (I + x + 1) mod 65536`, R184, R185. -/
def State.stepI (s : State) (x : Reg) : State := s.setI (s.i + BitVec.ofNat 16 (x.val + 1))

/-- The three decimal digits of `Fx33`, hundreds first (R183). -/
def bcdDigits (b : Byte) : List Byte :=
  [BitVec.ofNat 8 (b.toNat / 100), BitVec.ofNat 8 (b.toNat / 10 % 10), BitVec.ofNat 8 (b.toNat % 10)]

/-- The logical key a byte names, if it names one (R160, R161). -/
def keyNamed (b : Byte) : Option Key := if h : b.toNat < 16 then some ⟨b.toNat, h⟩ else none

/-- The logical keys in ascending order. -/
def allKeys : List Key := [0, 1, 2, 3, 4, 5, 6, 7] ++ [8, 9, 10, 11, 12, 13, 14, 15]

/-- R162: the first key down among keys `0 .. KEY_SCAN_COUNT - 1`. -/
def State.firstKeyDown (s : State) : Option Key :=
  allKeys.find? fun k => decide (k.val < s.cfg.keyScan.count) && s.isDown k

end Sys2Proof.Machine
end

