-- ==== Sys2Proof/Machine/ControlFlow.lean ====
section
/-! DEFINITION. Return, jump, call, indexed jump (R110 to R114) and the unknown opcode (R95, R96). -/

namespace Sys2Proof.Machine

/-- `00EE`, R110. The stop at SP > 15, which no run reaches, is a DESIGN CHOICE (log entry 14); the opcode in every
fault record is written out by the encoder (DEDUCED, log entry 12). -/
def execRet (s : State) : Res :=
  if s.sp = 0 then .next (raise .stackUnderflow (some (encode .ret)) s)
  else match s.stackAt s.sp.toNat with
    | some t => .next (s.drop.setPc (t + 2))
    | none => .fault (.noStackSlot s.sp)

/-- `1nnn`, R111. -/
def execJp (nnn : Addr12) (s : State) : Res := .next (s.setPc (zextAddr nnn))

/-- `2nnn`, R112. -/
def execCall (nnn : Addr12) (s : State) : Res :=
  if 15 ≤ s.sp.toNat then .next (raise .stackOverflow (some (encode (.call nnn))) s)
  else .next ((s.push s.pc).setPc (zextAddr nnn))

/-- `Bnnn`, R113. -/
def execJpV0 (nnn : Addr12) (s : State) : Res := .next (s.setPc (offsetTarget nnn s))

/-- `UNKNOWN(op)`: a logged stall under `Continue` (R95), the fault `IllegalOpcode` under `Fatal` (R96). -/
def execUnknown (op : Word) (s : State) : Res :=
  match s.cfg.unknownPolicy with
  | .continue => .next (s.addLog op)
  | .fatal => .next (raise .illegalOpcode (some op) s)

end Sys2Proof.Machine
end

