-- ==== Sys2Proof/Machine/Display.lean ====
section
/-! DEFINITION. Clear display and draw sprite (R150 to R152). -/

namespace Sys2Proof.Machine

/-- `00E0`, R150. -/
def execCls (s : State) : Res := .next s.clearDisplay.advance

/-- What a draw whose bytes lie in Memory does: coordinates and rows are read before VF is written (R151). -/
def drawEffect (x y : Reg) (n : Fin 16) (s : State) : State :=
  let drawn := drawSprite s.cfg s.pix (s.readV x) (s.readV y) (Memory.readBytes s.mem s.base n.val)
  ((s.drawn drawn.1).writeV vF (flagByte drawn.2)).advance

/-- `Dxyn`, R151. -/
def execDrw (x y : Reg) (n : Fin 16) (s : State) : Res :=
  withRange n.val (encode (.drw x y n)) s (drawEffect x y n s)

end Sys2Proof.Machine
end

