-- ==== Sys2Proof/Machine/IndexMemory.lean ====
section
/-! DEFINITION. The address register and the memory instructions (R180 to R185). -/

namespace Sys2Proof.Machine

/-- `Annn`, R180. -/
def execLdI (nnn : Addr12) (s : State) : Res := .next (s.setI (zextAddr nnn)).advance

/-- `Fx1E`, R181. -/
def execAddI (x : Reg) (s : State) : Res := .next (s.setI (s.i + zextByte (s.readV x))).advance

/-- `Fx29`, R182. -/
def execLdF (x : Reg) (s : State) : Res := .next (s.setI (fontAddress (s.readV x))).advance

/-- What `Fx33` does when its three bytes lie in Memory (R183). -/
def bcdEffect (x : Reg) (s : State) : State :=
  (s.setMem (Memory.writeBytes s.mem s.base (bcdDigits (s.readV x)))).advance

/-- `Fx33`, R183. -/
def execLdB (x : Reg) (s : State) : Res := withRange 3 (encode (.ldB x)) s (bcdEffect x s)

/-- What `Fx55` does when its bytes lie in Memory (R184). -/
def dumpEffect (x : Reg) (s : State) : State :=
  ((s.setMem (Memory.writeBytes s.mem s.base (dumpBytes x s))).stepI x).advance

/-- `Fx55`, R184. -/
def execStoreRegs (x : Reg) (s : State) : Res :=
  withRange (x.val + 1) (encode (.storeRegs x)) s (dumpEffect x s)

/-- `V0..Vx` from memory at I (R185). -/
def State.loadFrom (s : State) (x : Reg) : State := { s with v := loadLoop s.mem s.base (regsUpTo x) s.v }

/-- What `Fx65` does when its bytes lie in Memory (R185). -/
def loadEffect (x : Reg) (s : State) : State := ((s.loadFrom x).stepI x).advance

/-- `Fx65`, R185. -/
def execLoadRegs (x : Reg) (s : State) : Res :=
  withRange (x.val + 1) (encode (.loadRegs x)) s (loadEffect x s)

end Sys2Proof.Machine
end

