-- ==== Sys2Proof/Machine/Keypad.lean ====
section
/-! DEFINITION. The key skips and wait for key (R160 to R162). -/

namespace Sys2Proof.Machine

/-- A key skip: on the level `wanted` of the key Vx names, or the fault of R206. -/
def keySkip (wanted : Bool) (x : Reg) (op : Word) (s : State) : Res :=
  match keyNamed (s.readV x) with
  | some k => .next (s.skipIf (s.isDown k == wanted))
  | none => .next (raise (.keyOutOfRange (s.readV x)) (some op) s)

/-- `Ex9E`, R160: skip when the key is down. -/
def execSkp (x : Reg) (s : State) : Res := keySkip true x (encode (.skp x)) s

/-- `ExA1`, R161: skip when the key is not down. -/
def execSknp (x : Reg) (s : State) : Res := keySkip false x (encode (.sknp x)) s

/-- `Fx0A`, R162: the lowest scanned key that is down, or a stall. -/
def execLdVxK (x : Reg) (s : State) : Res :=
  match s.firstKeyDown with
  | some k => .next (s.writeV x (BitVec.ofNat 8 k.val)).advance
  | none => .next s

end Sys2Proof.Machine
end

