-- ==== Sys2Proof/Machine/Skips.lean ====
section
/-! DEFINITION. The conditional skips (R120 to R124). -/

namespace Sys2Proof.Machine

/-- `3xkk`, R120. -/
def execSeImm (x : Reg) (kk : Byte) (s : State) : Res := .next (s.skipIf (s.readV x == kk))

/-- `4xkk`, R121. -/
def execSneImm (x : Reg) (kk : Byte) (s : State) : Res := .next (s.skipIf (s.readV x != kk))

/-- `5xy0`, R122. -/
def execSeReg (x y : Reg) (s : State) : Res := .next (s.skipIf (s.readV x == s.readV y))

/-- `9xy0`, R123. -/
def execSneReg (x y : Reg) (s : State) : Res := .next (s.skipIf (s.readV x != s.readV y))

end Sys2Proof.Machine
end

