-- ==== Sys2Proof/Machine/TimerTransfer.lean ====
section
/-! DEFINITION. The timer transfers (R170 to R172). -/

namespace Sys2Proof.Machine

/-- `Fx07`, R170. -/
def execLdVxDt (x : Reg) (s : State) : Res := .next (s.writeV x s.dt).advance

/-- `Fx15`, R171. -/
def execLdDtVx (x : Reg) (s : State) : Res := .next (s.setDelay (s.readV x)).advance

/-- `Fx18`, R172. -/
def execLdStVx (x : Reg) (s : State) : Res := .next (s.setSound (s.readV x)).advance

end Sys2Proof.Machine
end

