-- ==== Sys2Proof/Machine/Step.lean ====
section
/-! DEFINITION. One step of the machine: the host's turn, then one call of the engine (R90, R91, R245). -/

namespace Sys2Proof.Machine

/-- R90, R91: one transition of the whole system. -/
def step (s : State) : Host.Outcome State Fault Refusal := cycle exec s

/-- The state with the instruction `w` stored where `step` fetches its next instruction (log entry 9). -/
def State.withFetchWord (s : State) (nbits w : Nat) : State := s.placeWord (tableWord nbits w)

end Sys2Proof.Machine
end

