-- ==== Sys2Proof/Safety.lean ====
section
/-! DEFINITION. The terms claims use: the invariant of the machine, what an instruction may change, and what a safe run is. -/

namespace Sys2Proof.Machine

/-- The invariant of every state that creation, `load_rom` and steps reach: a legal configuration (R244), SP in
0..15 (R26), the timer invariant (R29), memory and display in their canonical forms and inside their bounds
(R39, R50). -/
structure State.Inv (s : State) : Prop where
  cfg_valid : s.cfg.Valid
  sp_le : s.sp.toNat ≤ 15
  dta_nonneg : 0 ≤ s.dta
  dta_le : s.dta ≤ 255
  dt_floor : (s.dt.toNat : Int) = s.dta.floor
  sta_nonneg : 0 ≤ s.sta
  sta_le : s.sta ≤ 255
  st_ceil : (s.st.toNat : Int) = s.sta.ceil
  mem_wf : Memory.wf s.mem = true
  mem_below : Memory.below s.mem s.cfg.memSize = true
  pix_wf : Pixels.wf s.pix = true
  pix_within : Pixels.within s.pix s.cfg.displayWidth s.cfg.displayHeight = true

/-- The engine calls a step accepts and that only fetch and execute (R100): running, a finite elapsed time of at
least 0, and no host turn waiting. -/
structure State.Ready (s : State) (ms : Rat) : Prop where
  running : s.status = .running
  no_turn : s.hostTurns = []
  elapsed : s.elapsed = .finite ms
  nonneg : 0 ≤ ms

/-- The two bytes of `op` stand at PC, where a fetch can read them (R92). -/
structure State.Holds (s : State) (op : Word) : Prop where
  even : s.pc.toNat % 2 = 0
  in_memory : s.pc.toNat + 1 < s.cfg.memSize
  high : (s.byteAt s.pc.toNat).toNat = op.toNat / 256
  low : (s.byteAt (s.pc.toNat + 1)).toNat = op.toNat % 256

/-- A fault was taken: the status is `Faulted`. -/
def State.isFaulted (s : State) : Prop := ∃ r, s.status = .faulted r

/-- R42: every byte of memory reads as before. -/
def SameBytes (s t : State) : Prop := ∀ a, t.byteAt a = s.byteAt a

/-- R42: every byte of memory outside `a .. a+len-1` reads as before. -/
def SameBytesOutside (a len : Nat) (s t : State) : Prop :=
  ∀ b, b < a ∨ a + len ≤ b → t.byteAt b = s.byteAt b

/-- R42: every register not in the list is unchanged. -/
def SameRegsExcept (rs : List Reg) (s t : State) : Prop := ∀ r, r ∉ rs → t.readV r = s.readV r

/-- Frame: PC alone changes; registers, I, stack, SP, timers, status, memory, display and all else stay. -/
def OnlyPc (s t : State) : Prop := t = { s with pc := t.pc } ∧ SameBytes s t

/-- Frame: PC and the listed general registers change and nothing else. -/
def OnlyRegs (rs : List Reg) (s t : State) : Prop :=
  t = { s with pc := t.pc, v := t.v } ∧ SameRegsExcept rs s t ∧ SameBytes s t

/-- Frame: PC and I change and nothing else. -/
def OnlyI (s t : State) : Prop := t = { s with pc := t.pc, i := t.i } ∧ SameBytes s t

/-- The state a fault leaves: only `status` is written (R99, R210). -/
def FaultedAs (k : FaultKind) (op : Option Word) (s t : State) : Prop :=
  t = { s with status := .faulted { kind := k, opcode := op, pc := s.pc } }

end Sys2Proof.Machine

namespace Sys2Proof

open Machine

/-- The registers an instruction may write: its destinations and VF where it is a flag (R22, R42). -/
def Instr.mayWrite (i : Instr) (r : Reg) : Bool :=
  match i with
  | .ldImm x _ | .addImm x _ | .ldReg x _ | .orReg x _ | .andReg x _ | .xorReg x _ | .rnd x _
  | .ldVxDt x | .ldVxK x => r == x
  | .addReg x _ | .subReg x _ | .shr x _ | .subn x _ | .shl x _ => r == x || r == vF
  | .drw _ _ _ => r == vF
  | .loadRegs x => decide (r.val ≤ x.val)
  | .cls | .ret | .jp _ | .call _ | .seImm _ _ | .sneImm _ _ | .seReg _ _ | .sneReg _ _ | .ldI _
  | .jpV0 _ | .skp _ | .sknp _ | .ldDtVx _ | .ldStVx _ | .addI _ | .ldF _ | .ldB _ | .storeRegs _
  | .unknown _ => false

/-- The instructions that store to memory (R64). -/
def Instr.stores : Instr → Bool
  | .ldB _ | .storeRegs _ => true
  | .cls | .ret | .jp _ | .call _ | .seImm _ _ | .sneImm _ _ | .seReg _ _ | .ldImm _ _
  | .addImm _ _ | .ldReg _ _ | .orReg _ _ | .andReg _ _ | .xorReg _ _ | .addReg _ _ | .subReg _ _
  | .shr _ _ | .subn _ _ | .shl _ _ | .sneReg _ _ | .ldI _ | .jpV0 _ | .rnd _ _ | .drw _ _ _
  | .skp _ | .sknp _ | .ldVxDt _ | .ldVxK _ | .ldDtVx _ | .ldStVx _ | .addI _ | .ldF _
  | .loadRegs _ | .unknown _ => false

/-- The instructions that write I (R23). -/
def Instr.writesI : Instr → Bool
  | .ldI _ | .addI _ | .ldF _ | .storeRegs _ | .loadRegs _ => true
  | .cls | .ret | .jp _ | .call _ | .seImm _ _ | .sneImm _ _ | .seReg _ _ | .ldImm _ _
  | .addImm _ _ | .ldReg _ _ | .orReg _ _ | .andReg _ _ | .xorReg _ _ | .addReg _ _ | .subReg _ _
  | .shr _ _ | .subn _ _ | .shl _ _ | .sneReg _ _ | .jpV0 _ | .rnd _ _ | .drw _ _ _
  | .skp _ | .sknp _ | .ldVxDt _ | .ldVxK _ | .ldDtVx _ | .ldStVx _ | .ldB _ | .unknown _ => false

/-- The instructions R94 does not list under `pc <- pc + 2`: jumps, call, return, skips, wait for key, unknown. -/
def Instr.steersPc : Instr → Bool
  | .ret | .jp _ | .call _ | .jpV0 _ | .seImm _ _ | .sneImm _ _ | .seReg _ _ | .sneReg _ _
  | .skp _ | .sknp _ | .ldVxK _ | .unknown _ => true
  | .cls | .ldImm _ _ | .addImm _ _ | .ldReg _ _ | .orReg _ _ | .andReg _ _ | .xorReg _ _
  | .addReg _ _ | .subReg _ _ | .shr _ _ | .subn _ _ | .shl _ _ | .ldI _ | .rnd _ _ | .drw _ _ _
  | .ldVxDt _ | .ldDtVx _ | .ldStVx _ | .addI _ | .ldF _ | .ldB _ | .storeRegs _ | .loadRegs _ => false

/-- How many bytes at I an instruction reads or writes, for the four that do (R64). -/
def Instr.bytesAtI : Instr → Option Nat
  | .drw _ _ n => some n.val
  | .ldB _ => some 3
  | .storeRegs x | .loadRegs x => some (x.val + 1)
  | .cls | .ret | .jp _ | .call _ | .seImm _ _ | .sneImm _ _ | .seReg _ _ | .ldImm _ _
  | .addImm _ _ | .ldReg _ _ | .orReg _ _ | .andReg _ _ | .xorReg _ _ | .addReg _ _ | .subReg _ _
  | .shr _ _ | .subn _ _ | .shl _ _ | .sneReg _ _ | .ldI _ | .jpV0 _ | .rnd _ _
  | .skp _ | .sknp _ | .ldVxDt _ | .ldVxK _ | .ldDtVx _ | .ldStVx _ | .addI _ | .ldF _ | .unknown _ => none

/-- R209: the one kind of fault an instruction can raise in Execute. -/
def Instr.mayRaise (i : Instr) (k : FaultKind) : Prop :=
  match i, k with
  | .unknown _, .illegalOpcode => True
  | .ret, .stackUnderflow => True
  | .call _, .stackOverflow => True
  | .drw _ _ _, .memOutOfRange _ => True
  | .ldB _, .memOutOfRange _ => True
  | .storeRegs _, .memOutOfRange _ => True
  | .loadRegs _, .memOutOfRange _ => True
  | .skp _, .keyOutOfRange _ => True
  | .sknp _, .keyOutOfRange _ => True
  | _, _ => False

end Sys2Proof

namespace Sys2Proof.Machine

/-- The sprite bits of R152 that fall on display pixel `p`: row `r` of the bytes at I, column `col`, bit `7 - col`. -/
def SpriteCovers (s : State) (x y : Reg) (n : Nat) (p : Pixel) : Prop :=
  ∃ r col, r < n ∧ col < 8 ∧ (s.byteAt (s.i.toNat + r)).getLsbD (7 - col) = true ∧
    p.x = ((s.readV x).toNat + col) % s.cfg.displayWidth ∧
    p.y = ((s.readV y).toNat + r) % s.cfg.displayHeight

/-- A run that is safe so far: `k` steps end in a state that is not `Faulted` (R99: "a faulted state is never a
final state"). -/
def SafeFor (k : Nat) (s : State) : Prop :=
  ∃ t : State, Host.Core.run Sys2Proof.core k s = .next t ∧ ¬ t.isFaulted

/-- R247: the end of a run, PC at a self-jump `1nnn` with `nnn = pc`. -/
def AtEnd (s : State) : Prop := ∃ nnn : Addr12, s.pc.toNat = nnn.toNat ∧ s.Holds (encode (.jp nnn))

end Sys2Proof.Machine
end

