-- ==== Sys2Proof/Certificates/Slice0/Obligations.lean ====
section
/-! DEFINITION. The statements for the provers. Each docstring names the rule of spec/ it formalises. -/

open Sys2Proof Sys2Proof.Machine

/-! ## Encoding -/

/-- Words written out from the patterns of R75 decode to the instructions they stand for; for words of no pattern, R76. -/
def Obligations.WrittenOutWordsDecode : Prop :=
  decode 0x00E0 = .cls ∧ decode 0x00EE = .ret ∧ decode 0x1ABC = .jp 0xABC ∧ decode 0x220A = .call 0x20A ∧
  decode 0x3A42 = .seImm 10 0x42 ∧ decode 0x5120 = .seReg 1 2 ∧ decode 0x8AB6 = .shr 10 11 ∧
  decode 0x801E = .shl 0 1 ∧ decode 0xBF00 = .jpV0 0xF00 ∧ decode 0xC30F = .rnd 3 0x0F ∧
  decode 0xD12F = .drw 1 2 15 ∧ decode 0xE19E = .skp 1 ∧ decode 0xE1A1 = .sknp 1 ∧
  decode 0xFF0A = .ldVxK 15 ∧ decode 0xF307 = .ldVxDt 3 ∧ decode 0xF255 = .storeRegs 2 ∧
  decode 0x0123 = .unknown 0x0123 ∧ decode 0x5121 = .unknown 0x5121 ∧ decode 0x812F = .unknown 0x812F ∧
  decode 0xE19F = .unknown 0xE19F ∧ decode 0xF166 = .unknown 0xF166

/-- R75, R82: decoding the word of any well-formed instruction gives the instruction back, every operand included. -/
def Obligations.DecodeOfEncodeIsTheInstruction : Prop :=
  ∀ i : Instr, i.wf = true → decode (encode i) = i

/-- R74: every 16-bit value decodes to a well-formed instruction whose word is that value. -/
def Obligations.EncodeOfDecodeIsTheWord : Prop :=
  ∀ op : Word, (decode op).wf = true ∧ encode (decode op) = op

/-- R75, R76: `op & mask == match` selects the instruction; a word that no row covers is `UNKNOWN`. -/
def Obligations.MaskAndMatchSelectTheInstruction : Prop :=
  ∀ op : Word,
    (∀ r ∈ instructionRows, r.covers op = true → (decode op).row = r) ∧
    ((∀ r ∈ instructionRows, r.covers op = false) → decode op = .unknown op)

/-- R52, R70: an instruction is two bytes, the high byte at the lower address, and decoding them takes both and
leaves the rest of the string. -/
def Obligations.InstructionIsTwoBytesHighByteFirst : Prop :=
  ∀ (i : Instr) (rest : List Byte), i.wf = true → ∃ hi lo : Byte,
    encodeBytes i = [hi, lo] ∧ hi.toNat = (encode i).toNat / 256 ∧ lo.toNat = (encode i).toNat % 256 ∧
    decodeBytes (hi :: lo :: rest) = .ok (i, rest)

/-! ## Register loads, arithmetic, random -/

/-- R130 `6xkk`, R132 `8xy0`: Vx takes the immediate, or the value of Vy. -/
def Obligations.RegisterLoadsWriteTheirOperand : Prop :=
  (∀ op : Word, nibble1 op = 0x6 → decode op = .ldImm (fieldX op) (fieldKK op)) ∧
  (∀ op : Word, nibble1 op = 0x8 → nibble4 op = 0x0 → decode op = .ldReg (fieldX op) (fieldY op)) ∧
  ∀ (x y : Reg) (kk : Byte) (s : State),
    (∃ t, exec (.ldImm x kk) s = .next t ∧ t.readV x = kk ∧
      t.pc.toNat = (s.pc.toNat + 2) % 65536 ∧ OnlyRegs [x] s t) ∧
    (∃ t, exec (.ldReg x y) s = .next t ∧ t.readV x = s.readV y ∧
      t.pc.toNat = (s.pc.toNat + 2) % 65536 ∧ OnlyRegs [x] s t)

/-- R131 `7xkk`: the sum wraps and VF is no flag. -/
def Obligations.AddImmediateWrapsAndSetsNoFlag : Prop :=
  (∀ op : Word, nibble1 op = 0x7 → decode op = .addImm (fieldX op) (fieldKK op)) ∧
  ∀ (x : Reg) (kk : Byte) (s : State), ∃ t, exec (.addImm x kk) s = .next t ∧
    (t.readV x).toNat = ((s.readV x).toNat + kk.toNat) % 256 ∧
    t.pc.toNat = (s.pc.toNat + 2) % 65536 ∧ OnlyRegs [x] s t

/-- R133, R134, R135: OR, AND, XOR act on each of the 8 bits and leave VF alone. -/
def Obligations.BitwiseOperationsActOnEachBit : Prop :=
  (∀ op : Word, nibble1 op = 0x8 → nibble4 op = 0x1 → decode op = .orReg (fieldX op) (fieldY op)) ∧
  (∀ op : Word, nibble1 op = 0x8 → nibble4 op = 0x2 → decode op = .andReg (fieldX op) (fieldY op)) ∧
  (∀ op : Word, nibble1 op = 0x8 → nibble4 op = 0x3 → decode op = .xorReg (fieldX op) (fieldY op)) ∧
  ∀ (x y : Reg) (s : State),
    (∃ t, exec (.orReg x y) s = .next t ∧
      (∀ k, (t.readV x).getLsbD k = ((s.readV x).getLsbD k || (s.readV y).getLsbD k)) ∧
      t.pc.toNat = (s.pc.toNat + 2) % 65536 ∧ OnlyRegs [x] s t) ∧
    (∃ t, exec (.andReg x y) s = .next t ∧
      (∀ k, (t.readV x).getLsbD k = ((s.readV x).getLsbD k && (s.readV y).getLsbD k)) ∧
      t.pc.toNat = (s.pc.toNat + 2) % 65536 ∧ OnlyRegs [x] s t) ∧
    (∃ t, exec (.xorReg x y) s = .next t ∧
      (∀ k, (t.readV x).getLsbD k = ((s.readV x).getLsbD k != (s.readV y).getLsbD k)) ∧
      t.pc.toNat = (s.pc.toNat + 2) % 65536 ∧ OnlyRegs [x] s t)

/-- R136 `8xy4`, R142: the wrapped sum, VF = carry out of bit 7; with x = F the flag remains. -/
def Obligations.AddSetsCarryFromTheOldOperands : Prop :=
  (∀ op : Word, nibble1 op = 0x8 → nibble4 op = 0x4 → decode op = .addReg (fieldX op) (fieldY op)) ∧
  ∀ (x y : Reg) (s : State), ∃ t, exec (.addReg x y) s = .next t ∧
    (x ≠ vF → (t.readV x).toNat = ((s.readV x).toNat + (s.readV y).toNat) % 256) ∧
    (t.readV vF).toNat = (if (s.readV x).toNat + (s.readV y).toNat > 255 then 1 else 0) ∧
    t.pc.toNat = (s.pc.toNat + 2) % 65536 ∧ OnlyRegs [x, vF] s t

/-- R137 `8xy5`, R142: the wrapped difference, VF = 1 exactly when Vx > Vy. -/
def Obligations.SubtractSetsFlagWhenStrictlyGreater : Prop :=
  (∀ op : Word, nibble1 op = 0x8 → nibble4 op = 0x5 → decode op = .subReg (fieldX op) (fieldY op)) ∧
  ∀ (x y : Reg) (s : State), ∃ t, exec (.subReg x y) s = .next t ∧
    (x ≠ vF → ((t.readV x).toNat : Int) = (((s.readV x).toNat : Int) - (s.readV y).toNat) % 256) ∧
    (t.readV vF).toNat = (if (s.readV x).toNat > (s.readV y).toNat then 1 else 0) ∧
    t.pc.toNat = (s.pc.toNat + 2) % 65536 ∧ OnlyRegs [x, vF] s t

/-- R139 `8xy7`, R142: the operands of `8xy5` swapped, the destination still Vx. -/
def Obligations.ReverseSubtractSetsFlagWhenVyGreater : Prop :=
  (∀ op : Word, nibble1 op = 0x8 → nibble4 op = 0x7 → decode op = .subn (fieldX op) (fieldY op)) ∧
  ∀ (x y : Reg) (s : State), ∃ t, exec (.subn x y) s = .next t ∧
    (x ≠ vF → ((t.readV x).toNat : Int) = (((s.readV y).toNat : Int) - (s.readV x).toNat) % 256) ∧
    (t.readV vF).toNat = (if (s.readV y).toNat > (s.readV x).toNat then 1 else 0) ∧
    t.pc.toNat = (s.pc.toNat + 2) % 65536 ∧ OnlyRegs [x, vF] s t

/-- R138 `8xy6`, R142: Vx div 2, VF = old bit 0; `y` is ignored. -/
def Obligations.ShiftRightHalvesAndKeepsTheLowBit : Prop :=
  (∀ op : Word, nibble1 op = 0x8 → nibble4 op = 0x6 → decode op = .shr (fieldX op) (fieldY op)) ∧
  ∀ (x y : Reg) (s : State), ∃ t, exec (.shr x y) s = .next t ∧
    (x ≠ vF → (t.readV x).toNat = (s.readV x).toNat / 2) ∧
    (t.readV vF).toNat = (s.readV x).toNat % 2 ∧
    t.pc.toNat = (s.pc.toNat + 2) % 65536 ∧ OnlyRegs [x, vF] s t

/-- R140 `8xyE`, R142: Vx doubled and wrapped, VF = old bit 7; `y` is ignored. -/
def Obligations.ShiftLeftDoublesAndKeepsTheHighBit : Prop :=
  (∀ op : Word, nibble1 op = 0x8 → nibble4 op = 0xE → decode op = .shl (fieldX op) (fieldY op)) ∧
  ∀ (x y : Reg) (s : State), ∃ t, exec (.shl x y) s = .next t ∧
    (x ≠ vF → (t.readV x).toNat = ((s.readV x).toNat * 2) % 256) ∧
    (t.readV vF).toNat = (s.readV x).toNat / 128 ∧
    t.pc.toNat = (s.pc.toNat + 2) % 65536 ∧ OnlyRegs [x, vF] s t

/-- R141 `Cxkk`: the source's byte, whatever it is, AND the immediate; each execution uses up one byte of the
random source (the model's free value, log entry 5). -/
def Obligations.RandomByteIsMaskedByTheImmediate : Prop :=
  (∀ op : Word, nibble1 op = 0xC → decode op = .rnd (fieldX op) (fieldKK op)) ∧
  ∀ (x : Reg) (kk : Byte) (s : State), ∃ t, exec (.rnd x kk) s = .next t ∧
    t.readV x = Config.randByte s.freeCount &&& kk ∧ t.readV x &&& ~~~kk = 0 ∧
    t.pc.toNat = (s.pc.toNat + 2) % 65536 ∧
    t = { s with pc := t.pc, v := t.v, freeCount := s.freeCount + 1 } ∧ SameRegsExcept [x] s t ∧ SameBytes s t

/-! ## Skips -/

/-- R120 to R124: the four conditions; a skip adds exactly 4 to PC, no skip exactly 2, and nothing else changes. -/
def Obligations.SkipsAddFourWhenTheirConditionHolds : Prop :=
  (∀ op : Word, nibble1 op = 0x3 → decode op = .seImm (fieldX op) (fieldKK op)) ∧
  (∀ op : Word, nibble1 op = 0x4 → decode op = .sneImm (fieldX op) (fieldKK op)) ∧
  (∀ op : Word, nibble1 op = 0x5 → decode op =
    if nibble4 op = 0 then .seReg (fieldX op) (fieldY op) else .unknown op) ∧
  (∀ op : Word, nibble1 op = 0x9 → decode op =
    if nibble4 op = 0 then .sneReg (fieldX op) (fieldY op) else .unknown op) ∧
  ∀ (x y : Reg) (kk : Byte) (s : State),
    (∃ t, exec (.seImm x kk) s = .next t ∧ OnlyPc s t ∧
      t.pc.toNat = (s.pc.toNat + if s.readV x = kk then 4 else 2) % 65536) ∧
    (∃ t, exec (.sneImm x kk) s = .next t ∧ OnlyPc s t ∧
      t.pc.toNat = (s.pc.toNat + if s.readV x ≠ kk then 4 else 2) % 65536) ∧
    (∃ t, exec (.seReg x y) s = .next t ∧ OnlyPc s t ∧
      t.pc.toNat = (s.pc.toNat + if s.readV x = s.readV y then 4 else 2) % 65536) ∧
    (∃ t, exec (.sneReg x y) s = .next t ∧ OnlyPc s t ∧
      t.pc.toNat = (s.pc.toNat + if s.readV x ≠ s.readV y then 4 else 2) % 65536)

/-! ## Control transfer -/

/-- R111 `1nnn`, R113 `Bnnn`: PC takes the address, or the address plus V0 (always V0; the sum never wraps). -/
def Obligations.JumpsSetPcDirectly : Prop :=
  (∀ op : Word, nibble1 op = 0x1 → decode op = .jp (fieldNNN op)) ∧
  (∀ op : Word, nibble1 op = 0xB → decode op = .jpV0 (fieldNNN op)) ∧
  ∀ (nnn : Addr12) (s : State),
    (∃ t, exec (.jp nnn) s = .next t ∧ t.pc.toNat = nnn.toNat ∧ OnlyPc s t) ∧
    (∃ t, exec (.jpV0 nnn) s = .next t ∧ t.pc.toNat = nnn.toNat + (s.readV 0).toNat ∧ OnlyPc s t)

/-- R112 `2nnn` and R202: with SP below 15 the call's own address is pushed; otherwise the fault `StackOverflow`. -/
def Obligations.CallPushesItsOwnAddress : Prop :=
  (∀ op : Word, nibble1 op = 0x2 → decode op = .call (fieldNNN op)) ∧
  ∀ (nnn : Addr12) (s : State),
    (s.sp.toNat < 15 → ∃ t, exec (.call nnn) s = .next t ∧ t.sp.toNat = s.sp.toNat + 1 ∧
      t.stackAt (s.sp.toNat + 1) = some s.pc ∧ t.pc.toNat = nnn.toNat ∧
      (∀ k, k ≠ s.sp.toNat + 1 → t.stackAt k = s.stackAt k) ∧
      t = { s with pc := t.pc, sp := t.sp, stack := t.stack } ∧ SameBytes s t) ∧
    (15 ≤ s.sp.toNat → ∃ t, exec (.call nnn) s = .next t ∧
      FaultedAs .stackOverflow (some (encode (.call nnn))) s t)

/-- R110 `00EE` and R201: with SP from 1 to 15 the pending record is popped; with SP = 0 the fault `StackUnderflow`. -/
def Obligations.ReturnPopsAndAddsTwo : Prop :=
  decode 0x00EE = .ret ∧
  ∀ s : State,
    (∀ w : Word, s.sp ≠ 0 → s.stackAt s.sp.toNat = some w → ∃ t, exec .ret s = .next t ∧
      t.pc.toNat = (w.toNat + 2) % 65536 ∧ t.sp.toNat = s.sp.toNat - 1 ∧
      t = { s with pc := t.pc, sp := t.sp } ∧ SameBytes s t) ∧
    (s.sp = 0 → ∃ t, exec .ret s = .next t ∧ FaultedAs .stackUnderflow (some 0x00EE) s t)

/-- R114 (its inference): a return that finds the record a call pushed lands after the call and restores SP. -/
def Obligations.ReturnLandsAfterTheCall : Prop :=
  ∀ (nnn : Addr12) (s : State), s.sp.toNat < 15 → ∃ t, exec (.call nnn) s = .next t ∧
    ∀ u : State, u.sp = t.sp → u.stackAt (s.sp.toNat + 1) = t.stackAt (s.sp.toNat + 1) →
      ∃ w, exec .ret u = .next w ∧ w.pc.toNat = (s.pc.toNat + 2) % 65536 ∧ w.sp = s.sp ∧
        w = { u with pc := w.pc, sp := w.sp }

/-- R95, R96: an unknown opcode is a logged stall under `Continue` and the fault `IllegalOpcode` under `Fatal`. The log
as a list is the model's choice (log entry 10). -/
def Obligations.UnknownOpcodeStallsOrFaults : Prop :=
  ∀ (op : Word) (s : State),
    (s.cfg.unknownPolicy = .continue →
      exec (.unknown op) s = .next { s with log := s.log ++ [{ opcode := op, pc := s.pc }] }) ∧
    (s.cfg.unknownPolicy = .fatal →
      ∃ t, exec (.unknown op) s = .next t ∧ FaultedAs .illegalOpcode (some op) s t)

/-! ## Display -/

/-- R150 `00E0`: every pixel becomes 0; VF and all else but the dirty flag stay. -/
def Obligations.ClearDisplayTurnsEveryPixelOff : Prop :=
  decode 0x00E0 = .cls ∧
  ∀ s : State, ∃ t, exec .cls s = .next t ∧ (∀ p, t.pix.lit p = false) ∧
    t.pc.toNat = (s.pc.toNat + 2) % 65536 ∧
    t = { s with pc := t.pc, pix := t.pix, dirty := t.dirty } ∧ SameBytes s t

/-- R151, R152 `Dxyn`: where the n bytes at I lie in Memory, exactly the pixels under the sprite's 1 bits flip and VF
tells whether a set pixel was unset. The grid is in its canonical form and, as R152 puts it, `W >= 8` and `H >= n`. -/
def Obligations.DrawFlipsExactlyTheSpritePixels : Prop :=
  (∀ op : Word, nibble1 op = 0xD → decode op = .drw (fieldX op) (fieldY op) (fieldN op)) ∧
  ∀ (x y : Reg) (n : Fin 16) (s : State),
    (n.val = 0 ∨ s.i.toNat + n.val - 1 < s.cfg.memSize) → Pixels.wf s.pix = true →
    8 ≤ s.cfg.displayWidth → 1 ≤ s.cfg.displayHeight → n.val ≤ s.cfg.displayHeight →
    ∃ t, exec (.drw x y n) s = .next t ∧
      (∀ p, SpriteCovers s x y n.val p → t.pix.lit p = !s.pix.lit p) ∧
      (∀ p, ¬ SpriteCovers s x y n.val p → t.pix.lit p = s.pix.lit p) ∧
      ((∃ p, SpriteCovers s x y n.val p ∧ s.pix.lit p = true) → t.readV vF = 1) ∧
      ((¬ ∃ p, SpriteCovers s x y n.val p ∧ s.pix.lit p = true) → t.readV vF = 0) ∧
      t.pc.toNat = (s.pc.toNat + 2) % 65536

/-- R151: the frame of `Dxyn` in every configuration: VF and PC, the grid, the dirty flag and the model's counter of
free values (log entry 6) may change, nothing else; the grid and VF are what R152's loop over the n bytes at I gives. -/
def Obligations.DrawRunsTheSpriteLoopAndWritesOnlyVF : Prop :=
  ∀ (x y : Reg) (n : Fin 16) (s : State), (n.val = 0 ∨ s.i.toNat + n.val - 1 < s.cfg.memSize) →
    ∃ t rows, exec (.drw x y n) s = .next t ∧ rows.length = n.val ∧
      (∀ k (h : k < rows.length), rows[k] = s.byteAt (s.i.toNat + k)) ∧
      t.pix = (drawSprite s.cfg s.pix (s.readV x) (s.readV y) rows).1 ∧
      (t.readV vF).toNat = (if (drawSprite s.cfg s.pix (s.readV x) (s.readV y) rows).2 = true then 1 else 0) ∧
      t = { s with pc := t.pc, v := t.v, pix := t.pix, dirty := t.dirty, freeCount := t.freeCount } ∧
      SameRegsExcept [vF] s t ∧ SameBytes s t

/-! ## Keypad -/

/-- R160, R161, R206: the key skips by the level of the key Vx names, and the fault `KeyOutOfRange` when Vx > 15. -/
def Obligations.KeySkipsFollowTheLevelOfTheNamedKey : Prop :=
  (∀ op : Word, nibble1 op = 0xE → fieldKK op = 0x9E → decode op = .skp (fieldX op)) ∧
  (∀ op : Word, nibble1 op = 0xE → fieldKK op = 0xA1 → decode op = .sknp (fieldX op)) ∧
  ∀ (x : Reg) (s : State),
    (∀ k : Key, k.val = (s.readV x).toNat →
      (∃ t, exec (.skp x) s = .next t ∧ OnlyPc s t ∧
        t.pc.toNat = (s.pc.toNat + if s.keys[k.val] = true then 4 else 2) % 65536) ∧
      (∃ t, exec (.sknp x) s = .next t ∧ OnlyPc s t ∧
        t.pc.toNat = (s.pc.toNat + if s.keys[k.val] = false then 4 else 2) % 65536)) ∧
    (15 < (s.readV x).toNat →
      (∃ t, exec (.skp x) s = .next t ∧ FaultedAs (.keyOutOfRange (s.readV x)) (some (encode (.skp x))) s t) ∧
      (∃ t, exec (.sknp x) s = .next t ∧ FaultedAs (.keyOutOfRange (s.readV x)) (some (encode (.sknp x))) s t))

/-- R162 `Fx0A`: the lowest scanned key that is down goes to Vx; with none down nothing at all is written. -/
def Obligations.WaitForKeyTakesTheLowestKeyOrStalls : Prop :=
  (∀ op : Word, nibble1 op = 0xF → fieldKK op = 0x0A → decode op = .ldVxK (fieldX op)) ∧
  ∀ (x : Reg) (s : State),
    (∀ k : Key, k.val < s.cfg.keyScan.count → s.keys[k.val] = true →
      (∀ j : Key, j.val < k.val → s.keys[j.val] = false) →
      ∃ t, exec (.ldVxK x) s = .next t ∧ (t.readV x).toNat = k.val ∧
        t.pc.toNat = (s.pc.toNat + 2) % 65536 ∧ OnlyRegs [x] s t) ∧
    ((∀ k : Key, k.val < s.cfg.keyScan.count → s.keys[k.val] = false) → exec (.ldVxK x) s = .next s)

/-! ## Timer transfers and the timer phase -/

/-- R170 `Fx07`: the integer value of the delay timer goes to Vx. -/
def Obligations.ReadDelayTimerCopiesTheInteger : Prop :=
  (∀ op : Word, nibble1 op = 0xF → fieldKK op = 0x07 → decode op = .ldVxDt (fieldX op)) ∧
  ∀ (x : Reg) (s : State), ∃ t, exec (.ldVxDt x) s = .next t ∧ t.readV x = s.dt ∧
    t.pc.toNat = (s.pc.toNat + 2) % 65536 ∧ OnlyRegs [x] s t

/-- R171, R172: writing a timer sets its integer and its accumulator to the same number. -/
def Obligations.WriteTimerSetsIntegerAndAccumulator : Prop :=
  (∀ op : Word, nibble1 op = 0xF → fieldKK op = 0x15 → decode op = .ldDtVx (fieldX op)) ∧
  (∀ op : Word, nibble1 op = 0xF → fieldKK op = 0x18 → decode op = .ldStVx (fieldX op)) ∧
  ∀ (x : Reg) (s : State),
    (∃ t, exec (.ldDtVx x) s = .next t ∧ t.dt = s.readV x ∧ t.dta = ((s.readV x).toNat : Rat) ∧
      t.pc.toNat = (s.pc.toNat + 2) % 65536 ∧
      t = { s with pc := t.pc, dt := t.dt, dta := t.dta } ∧ SameBytes s t) ∧
    (∃ t, exec (.ldStVx x) s = .next t ∧ t.st = s.readV x ∧ t.sta = ((s.readV x).toNat : Rat) ∧
      t.pc.toNat = (s.pc.toNat + 2) % 65536 ∧
      t = { s with pc := t.pc, st := t.st, sta := t.sta } ∧ SameBytes s t)

/-- R213 to R216: the timer phase over exact numbers: both accumulators fall by `delta_ms * 60 / 1000` and stop at 0,
DT is the floor, ST the ceiling, and a beep is queued when ST reaches 0 by this decay. -/
def Obligations.TimerPhaseDecaysBothTimersAndBeepsOnExpiry : Prop :=
  ∀ (s : State) (ms : Rat), s.cfg.accFormat = .exact → 0 ≤ ms → 0 ≤ s.dta → s.dta ≤ 255 → 0 ≤ s.sta →
    s.sta ≤ 255 → ∃ t, t = timerPhase ms s ∧
      t.dta = max 0 (s.dta - ms * 60 / 1000) ∧ (t.dt.toNat : Int) = ⌊t.dta⌋ ∧
      t.sta = max 0 (s.sta - ms * 60 / 1000) ∧ (t.st.toNat : Int) = ⌈t.sta⌉ ∧
      (t.beepPending = true ↔ s.beepPending = true ∨ (0 < s.st.toNat ∧ t.st = 0)) ∧
      t = { s with dt := t.dt, dta := t.dta, st := t.st, sta := t.sta, beepPending := t.beepPending }

/-- R217 (its inference): over exact numbers, timer phases one after another take off the elapsed time's sum,
however it is cut into steps. -/
def Obligations.DecayDependsOnTheElapsedSumOnly : Prop :=
  ∀ (deltas : List Rat) (s : State), s.cfg.accFormat = .exact → (∀ d ∈ deltas, 0 ≤ d) → 0 ≤ s.dta → 0 ≤ s.sta →
    (deltas.foldl (fun t d => timerPhase d t) s).dta = max 0 (s.dta - deltas.sum * 60 / 1000) ∧
    (deltas.foldl (fun t d => timerPhase d t) s).sta = max 0 (s.sta - deltas.sum * 60 / 1000)

/-- R27, R28, R218: in either number format a timer phase never raises a timer and never takes one below 0. -/
def Obligations.TimersNeverRiseByThemselves : Prop :=
  ∀ (s : State) (ms : Rat), s.Inv → 0 ≤ ms →
    (timerPhase ms s).dt.toNat ≤ s.dt.toNat ∧ (timerPhase ms s).st.toNat ≤ s.st.toNat ∧
    0 ≤ (timerPhase ms s).dta ∧ (timerPhase ms s).dta ≤ s.dta ∧
    0 ≤ (timerPhase ms s).sta ∧ (timerPhase ms s).sta ≤ s.sta

/-! ## Address register and memory instructions -/

/-- R180, R181, R182: the three writes of I. -/
def Obligations.AddressRegisterWrites : Prop :=
  (∀ op : Word, nibble1 op = 0xA → decode op = .ldI (fieldNNN op)) ∧
  (∀ op : Word, nibble1 op = 0xF → fieldKK op = 0x1E → decode op = .addI (fieldX op)) ∧
  (∀ op : Word, nibble1 op = 0xF → fieldKK op = 0x29 → decode op = .ldF (fieldX op)) ∧
  ∀ (x : Reg) (nnn : Addr12) (s : State),
    (∃ t, exec (.ldI nnn) s = .next t ∧ t.i.toNat = nnn.toNat ∧
      t.pc.toNat = (s.pc.toNat + 2) % 65536 ∧ OnlyI s t) ∧
    (∃ t, exec (.addI x) s = .next t ∧ t.i.toNat = (s.i.toNat + (s.readV x).toNat) % 65536 ∧
      t.pc.toNat = (s.pc.toNat + 2) % 65536 ∧ OnlyI s t) ∧
    (∃ t, exec (.ldF x) s = .next t ∧ t.i.toNat = (s.readV x).toNat * 5 ∧
      t.pc.toNat = (s.pc.toNat + 2) % 65536 ∧ OnlyI s t)

/-- R183 `Fx33`: where `I + 2` lies in Memory, the three true decimal digits go to I, I+1, I+2 and no other byte
changes; where it does not, the fault `MemOutOfRange`. The memory is in its canonical form where a stored byte is read. -/
def Obligations.BcdStoreWritesTheThreeDigits : Prop :=
  (∀ op : Word, nibble1 op = 0xF → fieldKK op = 0x33 → decode op = .ldB (fieldX op)) ∧
  ∀ (x : Reg) (s : State),
    (s.i.toNat + 2 < s.cfg.memSize → ∃ t, exec (.ldB x) s = .next t ∧
      (Memory.wf s.mem = true →
        (t.byteAt s.base).toNat = (s.readV x).toNat / 100 ∧
        (t.byteAt (s.base + 1)).toNat = (s.readV x).toNat / 10 % 10 ∧
        (t.byteAt (s.base + 2)).toNat = (s.readV x).toNat % 10) ∧
      s.base = s.i.toNat ∧ SameBytesOutside s.base 3 s t ∧
      t.pc.toNat = (s.pc.toNat + 2) % 65536 ∧ t = { s with pc := t.pc, mem := t.mem }) ∧
    (s.cfg.memSize ≤ s.i.toNat + 2 → ∃ t, exec (.ldB x) s = .next t ∧
      FaultedAs (.memOutOfRange (s.i.toNat + 2)) (some (encode (.ldB x))) s t)

/-- R184 `Fx55`: where `I + x` lies in Memory, V0..Vx go to I.., no other byte changes, and I is advanced by x + 1;
where it does not, the fault `MemOutOfRange`. The memory is in its canonical form where a stored byte is read. -/
def Obligations.RegisterDumpStoresV0ToVx : Prop :=
  (∀ op : Word, nibble1 op = 0xF → fieldKK op = 0x55 → decode op = .storeRegs (fieldX op)) ∧
  ∀ (x : Reg) (s : State),
    (s.i.toNat + x.val < s.cfg.memSize → ∃ t, exec (.storeRegs x) s = .next t ∧
      (Memory.wf s.mem = true → ∀ r : Reg, r.val ≤ x.val → t.byteAt (s.base + r.val) = s.readV r) ∧
      s.base = s.i.toNat ∧ SameBytesOutside s.base (x.val + 1) s t ∧
      t.i.toNat = (s.i.toNat + x.val + 1) % 65536 ∧
      t.pc.toNat = (s.pc.toNat + 2) % 65536 ∧ t = { s with pc := t.pc, i := t.i, mem := t.mem }) ∧
    (s.cfg.memSize ≤ s.i.toNat + x.val → ∃ t, exec (.storeRegs x) s = .next t ∧
      FaultedAs (.memOutOfRange (s.i.toNat + x.val)) (some (encode (.storeRegs x))) s t)

/-- R185 `Fx65`: where `I + x` lies in Memory, V0..Vx come from I.., the registers above Vx stay, and I is advanced
by x + 1; where it does not, the fault `MemOutOfRange`. -/
def Obligations.RegisterLoadReadsV0ToVx : Prop :=
  (∀ op : Word, nibble1 op = 0xF → fieldKK op = 0x65 → decode op = .loadRegs (fieldX op)) ∧
  ∀ (x : Reg) (s : State),
    (s.i.toNat + x.val < s.cfg.memSize → ∃ t, exec (.loadRegs x) s = .next t ∧
      (∀ r : Reg, r.val ≤ x.val → t.readV r = s.byteAt (s.i.toNat + r.val)) ∧
      (∀ r : Reg, x.val < r.val → t.readV r = s.readV r) ∧
      t.i.toNat = (s.i.toNat + x.val + 1) % 65536 ∧ t.pc.toNat = (s.pc.toNat + 2) % 65536 ∧
      t = { s with pc := t.pc, i := t.i, v := t.v } ∧ SameBytes s t) ∧
    (s.cfg.memSize ≤ s.i.toNat + x.val → ∃ t, exec (.loadRegs x) s = .next t ∧
      FaultedAs (.memOutOfRange (s.i.toNat + x.val)) (some (encode (.loadRegs x))) s t)

/-- R205, R63: each of the four memory instructions takes the fault `MemOutOfRange` exactly when one of its addresses
`I + k`, computed without wrap, lies outside Memory, and the record holds the highest of them. -/
def Obligations.MemoryInstructionsFaultOutsideMemory : Prop :=
  ∀ (i : Instr) (len : Nat) (s t : State), s.status = .running → i.bytesAtI = some len → exec i s = .next t →
    (t.isFaulted ↔ ∃ k, k < len ∧ s.cfg.memSize ≤ s.i.toNat + k) ∧
    (t.isFaulted → FaultedAs (.memOutOfRange (s.i.toNat + len - 1)) (some (encode i)) s t)

/-- R62, R53: the bytes a dump stores are what a later fetch at their address composes, the lower-numbered register
giving the high byte. -/
def Obligations.FetchSeesTheBytesADumpStored : Prop :=
  ∀ (x r q : Reg) (s : State), s.i.toNat + x.val < s.cfg.memSize → Memory.wf s.mem = true →
    q.val = r.val + 1 → q.val ≤ x.val → ∃ t, exec (.storeRegs x) s = .next t ∧
      ∀ u : State, u.mem = t.mem → u.cfg = s.cfg → u.pc.toNat = s.i.toNat + r.val → u.pc.toNat % 2 = 0 →
        ∃ op : Word, fetch u = .ok op ∧ op.toNat = (s.readV r).toNat * 256 + (s.readV q).toNat

/-- Two memories in canonical form that read alike at every address are the same memory. -/
def Obligations.MemoriesThatReadAlikeAreEqual : Prop :=
  ∀ m n : Memory, Memory.wf m = true → Memory.wf n = true → (∀ a, Memory.read m a = Memory.read n a) → m = n

/-! ## The step -/

/-- R91, R92, R97, R99: where the bytes at PC decode to a well-formed instruction, a step runs exactly it: its next state
is followed by the timer phase unless it raised a fault, and a fault of the instruction is the step's; no instruction
is refused. -/
def Obligations.StepRunsTheInstructionAtPc : Prop :=
  ∀ (i : Instr) (s : State) (ms : Rat), s.Ready ms → i.wf = true → s.Holds (encode i) →
    (∀ t, exec i s = .next t → ¬ t.isFaulted → step s = .next (timerPhase ms t)) ∧
    (∀ t, exec i s = .next t → t.isFaulted → step s = .next t) ∧
    (∀ f, exec i s = .fault f → step s = .fault f) ∧
    ∀ r, exec i s ≠ .refused r

/-- R92, R203, R204, R209: the two fetch faults, alignment first, with no opcode recorded. -/
def Obligations.FetchFaultsAtOddOrOutsidePc : Prop :=
  ∀ (s : State) (ms : Rat), s.Ready ms →
    (s.pc.toNat % 2 = 1 → ∃ t, step s = .next t ∧ FaultedAs .pcMisaligned none s t) ∧
    (s.pc.toNat % 2 = 0 → s.cfg.memSize ≤ s.pc.toNat + 1 →
      ∃ t, step s = .next t ∧ FaultedAs .fetchOutOfRange none s t)

/-- R100, R211: no step without a loaded program, with a negative or non-finite elapsed time, or after a fault;
`Faulted` is permanent, whatever turns the host has waiting. The queue of turns and the outcome of a step after a fault
are the model's (log entries 8 and 11). -/
def Obligations.StepStopsOutsideItsPreconditions : Prop :=
  ∀ s : State,
    (s.hostTurns = [] → s.status = .unloaded → step s = .refused .notLoaded) ∧
    (s.hostTurns = [] → s.status = .running → s.elapsed = .nonFinite → step s = .refused .badElapsed) ∧
    (∀ ms, s.hostTurns = [] → s.status = .running → s.elapsed = .finite ms → ms < 0 →
      step s = .refused .badElapsed) ∧
    (∀ r, s.status = .faulted r →
      ∀ k, Host.Core.run Sys2Proof.core (k + 1) s = .fault (.engineFaulted r))

/-- R245: the host's turn comes before the engine's step: its key levels and elapsed time are those of the step; a ROM
it loads is in place; a failed load is fatal. The queue of turns is the model's choice (log entry 8), and so is the
outcome of a failed load (log entry 13). -/
def Obligations.HostTurnComesBeforeTheStep : Prop :=
  ∀ (s : State) (turn : HostTurn) (rest : List HostTurn), s.hostTurns = turn :: rest → ¬ s.isFaulted →
    (turn.rom = none → step s = engineStep exec
      { s with hostTurns := rest, keys := turn.keys, elapsed := turn.elapsed,
               beepPending := s.beepPending && !turn.flushSpeaker, dirty := turn.dirty.getD s.dirty }) ∧
    (∀ rom l, turn.rom = some rom → loadRom rom { s with hostTurns := rest } = .ok l →
      l.status = .running ∧ l.hostTurns = rest ∧ step s = engineStep exec
        { l with keys := turn.keys, elapsed := turn.elapsed,
                 beepPending := s.beepPending && !turn.flushSpeaker, dirty := turn.dirty.getD s.dirty }) ∧
    (∀ rom e, turn.rom = some rom → loadRom rom { s with hostTurns := rest } = .error e →
      step s = .fault (.loadFailed e))

/-- R99: a step that raises a fault writes only `status`; the record holds the PC of the faulting instruction and its
opcode, which is absent for the two fetch faults. -/
def Obligations.FaultingStepChangesOnlyTheStatus : Prop :=
  ∀ (s t : State) (ms : Rat), s.Ready ms → step s = .next t → t.isFaulted →
    t = { s with status := t.status } ∧ ∃ r, t.status = .faulted r ∧ r.pc = s.pc ∧
      (∀ k, fetch s = .error k → r.kind = k ∧ r.opcode = none) ∧ (∀ op, fetch s = .ok op → r.opcode = some op)

/-- R209 (its inference): each instruction raises at most its one kind of fault, and the record holds its opcode. -/
def Obligations.EachInstructionRaisesOnlyItsOwnFault : Prop :=
  ∀ (i : Instr) (s t : State) (r : FaultRecord), s.status = .running → exec i s = .next t →
    t.status = .faulted r → i.mayRaise r.kind ∧ r.opcode = some (encode i) ∧ r.pc = s.pc

/-- R26, R100, R209: no instruction stops the machine in a state that runs reach, and a step whose preconditions hold
always answers a next state. -/
def Obligations.NoInstructionStopsAReachableMachine : Prop :=
  (∀ (i : Instr) (s : State), s.Inv → ∃ t, exec i s = .next t) ∧
  (∀ (s : State) (ms : Rat), s.Inv → s.Ready ms → ∃ t, step s = .next t)

/-! ## Frames over all instructions -/

/-- R22, R42: Execute writes no general register but the instruction's destinations and, for the six flag-writing
instructions, VF. -/
def Obligations.NoOtherRegisterIsWritten : Prop :=
  ∀ (i : Instr) (s t : State) (r : Reg), exec i s = .next t → i.mayWrite r = false → t.readV r = s.readV r

/-- R64: only `Fx33` and `Fx55` store to memory. -/
def Obligations.OnlyTwoInstructionsStore : Prop :=
  ∀ (i : Instr) (s t : State), exec i s = .next t → i.stores = false → t.mem = s.mem ∧ SameBytes s t

/-- R23, R25, R26, R27, R28, R34: I, the stack, SP, the timers and the pixels are written by the named instructions
only; the configuration, the key levels and the host's inputs by none. -/
def Obligations.EachPieceOfStateHasItsWriters : Prop :=
  ∀ (i : Instr) (s t : State), exec i s = .next t →
    (i.writesI = false → t.i = s.i) ∧
    (i ≠ .ret → (∀ nnn, i ≠ .call nnn) → t.sp = s.sp) ∧
    ((∀ nnn, i ≠ .call nnn) → t.stack = s.stack) ∧
    ((∀ x, i ≠ .ldDtVx x) → t.dt = s.dt ∧ t.dta = s.dta) ∧
    ((∀ x, i ≠ .ldStVx x) → t.st = s.st ∧ t.sta = s.sta) ∧
    (i ≠ .cls → (∀ x y n, i ≠ .drw x y n) → t.pix = s.pix ∧ t.dirty = s.dirty) ∧
    ((∀ op, i ≠ .unknown op) → t.log = s.log) ∧
    t.cfg = s.cfg ∧ t.keys = s.keys ∧ t.elapsed = s.elapsed ∧ t.hostTurns = s.hostTurns ∧
    t.beepPending = s.beepPending

/-- R94: PC advances by 2 after every instruction R94 does not name as an exception to the general rule. -/
def Obligations.PcAdvancesByTwoUnlessStatedOtherwise : Prop :=
  ∀ (i : Instr) (s t : State), s.status = .running → exec i s = .next t → ¬ t.isFaulted → i.steersPc = false →
    t.pc.toNat = (s.pc.toNat + 2) % 65536

/-- R20, R30: the configuration is fixed: no step changes it, whatever the host does in its turn. -/
def Obligations.StepKeepsTheConfiguration : Prop :=
  ∀ s t : State, step s = .next t → t.cfg = s.cfg

/-! ## Invariant, reset, host -/

/-- The invariant holds right after creation with any legal configuration, the model's `State.reset` among them. -/
def Obligations.CreationMeetsTheInvariant : Prop :=
  (∀ c : Cfg, c.Valid → (State.created c).Inv) ∧ State.reset.Inv

/-- R26, R29, R39, R50: every step keeps the invariant: SP in 0..15, `DT = floor(DTA)`, `ST = ceil(STA)`, accumulators
in 0..255, memory and display canonical and inside their bounds. -/
def Obligations.EveryStepKeepsTheInvariant : Prop :=
  ∀ s t : State, s.Inv → step s = .next t → t.Inv

/-- R40, R240: what creation leaves, for the state the spec gives a value. -/
def Obligations.CreationLeavesTheResetValues : Prop :=
  ∀ c : Cfg, ∃ s, s = State.created c ∧ s.cfg = c ∧ (∀ r, s.readV r = 0) ∧ s.i = 0 ∧
    (∀ k, k < 16 → s.stackAt k = some 0) ∧ s.sp = 0 ∧ s.dt = 0 ∧ s.dta = 0 ∧ s.st = 0 ∧ s.sta = 0 ∧
    s.status = .unloaded ∧ (∀ p, s.pix.lit p = false) ∧ s.beepPending = false

/-- R9, R207: a non-positive clock rate is a fatal configuration error; any other legal configuration creates an engine. -/
def Obligations.NonPositiveClockRateCreatesNoEngine : Prop :=
  ∀ c : Cfg, (c.clockRate ≤ 0 → createEngine c = .error .nonPositiveClockRate) ∧
    (c.Valid → createEngine c = .ok (State.created c))

/-- R56, R242, R240: a successful `load_rom` leaves the font at 0, the ROM at `PROGRAM_ADDRESS`, 0 elsewhere, PC at
`PROGRAM_ADDRESS` and the engine running, and touches nothing else. -/
def Obligations.LoadRomLaysOutMemoryAndResetsPc : Prop :=
  ∀ (rom : List Byte) (s : State), s.cfg.Valid → 2 ≤ rom.length →
    rom.length ≤ s.cfg.memSize - s.cfg.programAddress → ∃ t, loadRom rom s = .ok t ∧
      (∀ k (h : k < s.cfg.fontTable.length), t.byteAt k = s.cfg.fontTable[k]) ∧
      (∀ k (h : k < rom.length), t.byteAt (s.cfg.programAddress + k) = rom[k]) ∧
      (∀ a, 80 ≤ a → a < s.cfg.programAddress → t.byteAt a = 0) ∧
      (∀ a, s.cfg.programAddress + rom.length ≤ a → t.byteAt a = 0) ∧
      t.pc.toNat = s.cfg.programAddress ∧ t.status = .running ∧
      t = { s with pc := t.pc, mem := t.mem, status := t.status }

/-- R243: a ROM shorter than 2 bytes or larger than the program space is rejected, with the exact sizes; every other
length, odd or even, is accepted. -/
def Obligations.LoadRomRejectsWrongSizes : Prop :=
  ∀ (rom : List Byte) (s : State),
    (2 ≤ rom.length → rom.length ≤ s.cfg.memSize - s.cfg.programAddress → ∃ t, loadRom rom s = .ok t) ∧
    (rom.length < 2 → loadRom rom s = .error (.romTooShort rom.length)) ∧
    (2 ≤ rom.length → s.cfg.memSize - s.cfg.programAddress < rom.length →
      loadRom rom s = .error (.romTooLarge rom.length (s.cfg.memSize - s.cfg.programAddress)))

/-! ## Runs -/

/-- R247, R111 (R247's inference): from a self-jump on, any number of steps changes the timers and the speaker flag
only, and the run stays safe. -/
def Obligations.SelfJumpKeepsEverythingButTheTimers : Prop :=
  ∀ (s : State) (ms : Rat) (k : Nat), s.Ready ms → AtEnd s → SafeFor k s ∧
    ∃ t : State, Host.Core.run Sys2Proof.core k s = .next t ∧
      t = { s with dt := t.dt, dta := t.dta, st := t.st, sta := t.sta, beepPending := t.beepPending }

/-- R102, R162, R95 (R102's inference): n stalled steps, of `Fx0A` with no key down or of an unknown opcode under
`Continue`, differ from none in the timers, the speaker flag and the number of log records only. -/
def Obligations.StalledStepsAccumulateOnlyLogRecords : Prop :=
  ∀ (s : State) (ms : Rat) (k : Nat), s.Ready ms →
    (∀ x : Reg, s.Holds (encode (.ldVxK x)) → (∀ j : Key, s.keys[j.val] = false) →
      ∃ t : State, Host.Core.run Sys2Proof.core k s = .next t ∧
        t = { s with dt := t.dt, dta := t.dta, st := t.st, sta := t.sta, beepPending := t.beepPending }) ∧
    (∀ op : Word, isInstructionWord op = false → s.Holds op → s.cfg.unknownPolicy = .continue →
      ∃ t : State, Host.Core.run Sys2Proof.core k s = .next t ∧
        t = { s with dt := t.dt, dta := t.dta, st := t.st, sta := t.sta, beepPending := t.beepPending,
                     log := s.log ++ List.replicate k { opcode := op, pc := s.pc } })

/-- R41: no program observes the sound timer: two engines that differ in ST, STA and the speaker flag only differ in
them only after a step. -/
def Obligations.SoundTimerIsInvisibleToTheProgram : Prop :=
  ∀ (s t : State) (b : Byte) (q : Rat) (f : Bool), step s = .next t →
    ∃ u, step { s with st := b, sta := q, beepPending := f } = .next u ∧
      u = { t with st := u.st, sta := u.sta, beepPending := u.beepPending }
end

