-- ==== Sys2Proof/Laws/Codec.lean ====
section
/-! SUPPORT. The fields of an encoded word read back, and a word is the bytes it is stored as. -/

namespace Sys2Proof

theorem nibble1_toNat (op : Word) : (nibble1 op).toNat = op.toNat / 4096 := by
  simp [nibble1, BitVec.extractLsb'_toNat, Nat.shiftRight_eq_div_pow]
  omega

theorem nibble2_toNat (op : Word) : (nibble2 op).toNat = op.toNat / 256 % 16 := by
  simp [nibble2, BitVec.extractLsb'_toNat, Nat.shiftRight_eq_div_pow]

theorem nibble3_toNat (op : Word) : (nibble3 op).toNat = op.toNat / 16 % 16 := by
  simp [nibble3, BitVec.extractLsb'_toNat, Nat.shiftRight_eq_div_pow]

theorem nibble4_toNat (op : Word) : (nibble4 op).toNat = op.toNat % 16 := by
  simp [nibble4, BitVec.extractLsb'_toNat]

theorem fieldKK_toNat (op : Word) : (fieldKK op).toNat = op.toNat % 256 := by
  simp [fieldKK, BitVec.extractLsb'_toNat]

theorem fieldNNN_toNat (op : Word) : (fieldNNN op).toNat = op.toNat % 4096 := by
  simp [fieldNNN, BitVec.extractLsb'_toNat]

theorem fieldX_val (op : Word) : (fieldX op).val = op.toNat / 256 % 16 := nibble2_toNat op
theorem fieldY_val (op : Word) : (fieldY op).val = op.toNat / 16 % 16 := nibble3_toNat op
theorem fieldN_val (op : Word) : (fieldN op).val = op.toNat % 16 := nibble4_toNat op

theorem encodeNNN_toNat {c : Nat} (hc : c < 16) (nnn : Addr12) :
    (encodeNNN c nnn).toNat = c * 4096 + nnn.toNat := by
  have := nnn.isLt
  simp only [encodeNNN, BitVec.toNat_ofNat]
  omega

theorem encodeXKK_toNat {c : Nat} (hc : c < 16) (x : Reg) (kk : Byte) :
    (encodeXKK c x kk).toNat = c * 4096 + x.val * 256 + kk.toNat := by
  have := x.isLt
  have := kk.isLt
  simp only [encodeXKK, BitVec.toNat_ofNat]
  omega

theorem encodeXYN_toNat {c : Nat} (hc : c < 16) (x y : Reg) (n : Fin 16) :
    (encodeXYN c x y n).toNat = c * 4096 + x.val * 256 + y.val * 16 + n.val := by
  have := x.isLt
  have := y.isLt
  have := n.isLt
  simp only [encodeXYN, BitVec.toNat_ofNat]
  omega

/-! The fields of the three encoders. -/

theorem nibble1_encodeNNN {c : Nat} (hc : c < 16) (nnn : Addr12) :
    nibble1 (encodeNNN c nnn) = BitVec.ofNat 4 c := by
  apply BitVec.eq_of_toNat_eq
  have := nnn.isLt
  rw [nibble1_toNat, encodeNNN_toNat hc, BitVec.toNat_ofNat]
  omega

theorem fieldNNN_encodeNNN {c : Nat} (hc : c < 16) (nnn : Addr12) :
    fieldNNN (encodeNNN c nnn) = nnn := by
  apply BitVec.eq_of_toNat_eq
  have := nnn.isLt
  rw [fieldNNN_toNat, encodeNNN_toNat hc]
  omega

theorem nibble1_encodeXKK {c : Nat} (hc : c < 16) (x : Reg) (kk : Byte) :
    nibble1 (encodeXKK c x kk) = BitVec.ofNat 4 c := by
  apply BitVec.eq_of_toNat_eq
  have := x.isLt
  have := kk.isLt
  rw [nibble1_toNat, encodeXKK_toNat hc, BitVec.toNat_ofNat]
  omega

theorem fieldX_encodeXKK {c : Nat} (hc : c < 16) (x : Reg) (kk : Byte) :
    fieldX (encodeXKK c x kk) = x := by
  apply Fin.ext
  have := x.isLt
  have := kk.isLt
  rw [fieldX_val, encodeXKK_toNat hc]
  omega

theorem fieldKK_encodeXKK {c : Nat} (hc : c < 16) (x : Reg) (kk : Byte) :
    fieldKK (encodeXKK c x kk) = kk := by
  apply BitVec.eq_of_toNat_eq
  have := kk.isLt
  rw [fieldKK_toNat, encodeXKK_toNat hc]
  omega

theorem nibble1_encodeXYN {c : Nat} (hc : c < 16) (x y : Reg) (n : Fin 16) :
    nibble1 (encodeXYN c x y n) = BitVec.ofNat 4 c := by
  apply BitVec.eq_of_toNat_eq
  have := x.isLt
  have := y.isLt
  have := n.isLt
  rw [nibble1_toNat, encodeXYN_toNat hc, BitVec.toNat_ofNat]
  omega

theorem fieldX_encodeXYN {c : Nat} (hc : c < 16) (x y : Reg) (n : Fin 16) :
    fieldX (encodeXYN c x y n) = x := by
  apply Fin.ext
  have := x.isLt
  have := y.isLt
  have := n.isLt
  rw [fieldX_val, encodeXYN_toNat hc]
  omega

theorem fieldY_encodeXYN {c : Nat} (hc : c < 16) (x y : Reg) (n : Fin 16) :
    fieldY (encodeXYN c x y n) = y := by
  apply Fin.ext
  have := y.isLt
  have := n.isLt
  rw [fieldY_val, encodeXYN_toNat hc]
  omega

theorem fieldN_encodeXYN {c : Nat} (hc : c < 16) (x y : Reg) (n : Fin 16) :
    fieldN (encodeXYN c x y n) = n := by
  apply Fin.ext
  have := n.isLt
  rw [fieldN_val, encodeXYN_toNat hc]
  omega

theorem nibble4_encodeXYN {c : Nat} (hc : c < 16) (x y : Reg) (n : Fin 16) :
    nibble4 (encodeXYN c x y n) = BitVec.ofNat 4 n.val := by
  apply BitVec.eq_of_toNat_eq
  have := n.isLt
  rw [nibble4_toNat, encodeXYN_toNat hc, BitVec.toNat_ofNat]
  omega

/-! Bytes. -/

theorem highByte_toNat (op : Word) : (highByte op).toNat = op.toNat / 256 := by
  simp [highByte, BitVec.extractLsb'_toNat, Nat.shiftRight_eq_div_pow]
  omega

theorem lowByte_toNat (op : Word) : (lowByte op).toNat = op.toNat % 256 := by
  simp [lowByte, BitVec.extractLsb'_toNat]

theorem bigEndian_toNat (hi lo : Byte) : (bigEndian hi lo).toNat = hi.toNat * 256 + lo.toNat := by
  have := hi.isLt
  have := lo.isLt
  simp only [bigEndian, BitVec.toNat_ofNat]
  omega

/-- R52: the two bytes of a word, high byte first, compose the word again. -/
@[simp] theorem bigEndian_bytes (op : Word) : bigEndian (highByte op) (lowByte op) = op := by
  apply BitVec.eq_of_toNat_eq
  rw [bigEndian_toNat, highByte_toNat, lowByte_toNat]
  omega

theorem decodeBytes_cons (hi lo : Byte) (rest : List Byte) :
    decodeBytes (hi :: lo :: rest) = .ok (decode (bigEndian hi lo), rest) := rfl

/-! The three masks of the opcode map that leave bits free (R75). -/

theorem toNat_and_F000 (op : Word) : (op &&& 0xF000#16).toNat = op.toNat / 4096 * 4096 := by
  have := op.isLt
  have h : op &&& 0xF000#16 = (op >>> 12) <<< 12 := by
    ext i hi
    interval_cases i <;> simp
  rw [h, BitVec.toNat_shiftLeft, BitVec.toNat_ushiftRight, Nat.shiftLeft_eq, Nat.shiftRight_eq_div_pow]
  omega

theorem toNat_and_F0FF (op : Word) :
    (op &&& 0xF0FF#16).toNat = op.toNat / 4096 * 4096 + op.toNat % 256 := by
  have := op.isLt
  have h0 : (op >>> 12) <<< 12 &&& ((op <<< 8) >>> 8) = 0#16 := by
    ext i hi
    interval_cases i <;> simp
  have h : op &&& 0xF0FF#16 = (op >>> 12) <<< 12 + ((op <<< 8) >>> 8) := by
    rw [BitVec.add_eq_or_of_and_eq_zero _ _ h0]
    ext i hi
    interval_cases i <;> simp
  rw [h, BitVec.toNat_add, BitVec.toNat_shiftLeft, BitVec.toNat_ushiftRight, BitVec.toNat_ushiftRight,
    BitVec.toNat_shiftLeft, Nat.shiftLeft_eq, Nat.shiftRight_eq_div_pow, Nat.shiftLeft_eq,
    Nat.shiftRight_eq_div_pow]
  omega

theorem toNat_and_F00F (op : Word) :
    (op &&& 0xF00F#16).toNat = op.toNat / 4096 * 4096 + op.toNat % 16 := by
  have := op.isLt
  have h0 : (op >>> 12) <<< 12 &&& ((op <<< 12) >>> 12) = 0#16 := by
    ext i hi
    interval_cases i <;> simp
  have h : op &&& 0xF00F#16 = (op >>> 12) <<< 12 + ((op <<< 12) >>> 12) := by
    rw [BitVec.add_eq_or_of_and_eq_zero _ _ h0]
    ext i hi
    interval_cases i <;> simp
  rw [h, BitVec.toNat_add, BitVec.toNat_shiftLeft, BitVec.toNat_ushiftRight, BitVec.toNat_ushiftRight,
    BitVec.toNat_shiftLeft, Nat.shiftLeft_eq, Nat.shiftRight_eq_div_pow, Nat.shiftLeft_eq,
    Nat.shiftRight_eq_div_pow]
  omega

theorem covers_FFFF (v op : Word) : (OpcodeRow.mk 0xFFFF v).covers op = true ↔ op = v := by
  have : op &&& 0xFFFF#16 = op := BitVec.and_allOnes (x := op)
  simp [OpcodeRow.covers, this]

theorem covers_F000 (v op : Word) :
    (OpcodeRow.mk 0xF000 v).covers op = true ↔ op.toNat / 4096 * 4096 = v.toNat := by
  rw [OpcodeRow.covers, beq_iff_eq, ← BitVec.toNat_inj, ← toNat_and_F000]
  rfl

theorem covers_F00F (v op : Word) :
    (OpcodeRow.mk 0xF00F v).covers op = true ↔ op.toNat / 4096 * 4096 + op.toNat % 16 = v.toNat := by
  rw [OpcodeRow.covers, beq_iff_eq, ← BitVec.toNat_inj, ← toNat_and_F00F]
  rfl

theorem covers_F0FF (v op : Word) :
    (OpcodeRow.mk 0xF0FF v).covers op = true ↔ op.toNat / 4096 * 4096 + op.toNat % 256 = v.toNat := by
  rw [OpcodeRow.covers, beq_iff_eq, ← BitVec.toNat_inj, ← toNat_and_F0FF]
  rfl

end Sys2Proof
end

