-- ==== Sys2Proof/Laws/State.lean ====
section
/-! SUPPORT. One lemma per field per update of the state, so that no later proof unfolds a record update. -/

namespace Sys2Proof.Machine

section
variable (s : State) (m : Memory)

@[simp] theorem State.setMem_cfg : (s.setMem m).cfg = s.cfg := rfl
@[simp] theorem State.setMem_v : (s.setMem m).v = s.v := rfl
@[simp] theorem State.setMem_i : (s.setMem m).i = s.i := rfl
@[simp] theorem State.setMem_pc : (s.setMem m).pc = s.pc := rfl
@[simp] theorem State.setMem_stack : (s.setMem m).stack = s.stack := rfl
@[simp] theorem State.setMem_sp : (s.setMem m).sp = s.sp := rfl
@[simp] theorem State.setMem_dt : (s.setMem m).dt = s.dt := rfl
@[simp] theorem State.setMem_dta : (s.setMem m).dta = s.dta := rfl
@[simp] theorem State.setMem_st : (s.setMem m).st = s.st := rfl
@[simp] theorem State.setMem_sta : (s.setMem m).sta = s.sta := rfl
@[simp] theorem State.setMem_status : (s.setMem m).status = s.status := rfl
@[simp] theorem State.setMem_mem : (s.setMem m).mem = m := rfl
@[simp] theorem State.setMem_pix : (s.setMem m).pix = s.pix := rfl
@[simp] theorem State.setMem_dirty : (s.setMem m).dirty = s.dirty := rfl
@[simp] theorem State.setMem_keys : (s.setMem m).keys = s.keys := rfl
@[simp] theorem State.setMem_beepPending : (s.setMem m).beepPending = s.beepPending := rfl
@[simp] theorem State.setMem_log : (s.setMem m).log = s.log := rfl
@[simp] theorem State.setMem_elapsed : (s.setMem m).elapsed = s.elapsed := rfl
@[simp] theorem State.setMem_hostTurns : (s.setMem m).hostTurns = s.hostTurns := rfl
@[simp] theorem State.setMem_freeCount : (s.setMem m).freeCount = s.freeCount := rfl

end

section
variable (s : State) (r : Reg) (b : Byte)

@[simp] theorem State.writeV_cfg : (s.writeV r b).cfg = s.cfg := rfl
@[simp] theorem State.writeV_i : (s.writeV r b).i = s.i := rfl
@[simp] theorem State.writeV_pc : (s.writeV r b).pc = s.pc := rfl
@[simp] theorem State.writeV_stack : (s.writeV r b).stack = s.stack := rfl
@[simp] theorem State.writeV_sp : (s.writeV r b).sp = s.sp := rfl
@[simp] theorem State.writeV_dt : (s.writeV r b).dt = s.dt := rfl
@[simp] theorem State.writeV_dta : (s.writeV r b).dta = s.dta := rfl
@[simp] theorem State.writeV_st : (s.writeV r b).st = s.st := rfl
@[simp] theorem State.writeV_sta : (s.writeV r b).sta = s.sta := rfl
@[simp] theorem State.writeV_status : (s.writeV r b).status = s.status := rfl
@[simp] theorem State.writeV_mem : (s.writeV r b).mem = s.mem := rfl
@[simp] theorem State.writeV_pix : (s.writeV r b).pix = s.pix := rfl
@[simp] theorem State.writeV_dirty : (s.writeV r b).dirty = s.dirty := rfl
@[simp] theorem State.writeV_keys : (s.writeV r b).keys = s.keys := rfl
@[simp] theorem State.writeV_beepPending : (s.writeV r b).beepPending = s.beepPending := rfl
@[simp] theorem State.writeV_log : (s.writeV r b).log = s.log := rfl
@[simp] theorem State.writeV_elapsed : (s.writeV r b).elapsed = s.elapsed := rfl
@[simp] theorem State.writeV_hostTurns : (s.writeV r b).hostTurns = s.hostTurns := rfl
@[simp] theorem State.writeV_freeCount : (s.writeV r b).freeCount = s.freeCount := rfl

end

section
variable (s : State) (w : Word)

@[simp] theorem State.setI_cfg : (s.setI w).cfg = s.cfg := rfl
@[simp] theorem State.setI_v : (s.setI w).v = s.v := rfl
@[simp] theorem State.setI_i : (s.setI w).i = w := rfl
@[simp] theorem State.setI_pc : (s.setI w).pc = s.pc := rfl
@[simp] theorem State.setI_stack : (s.setI w).stack = s.stack := rfl
@[simp] theorem State.setI_sp : (s.setI w).sp = s.sp := rfl
@[simp] theorem State.setI_dt : (s.setI w).dt = s.dt := rfl
@[simp] theorem State.setI_dta : (s.setI w).dta = s.dta := rfl
@[simp] theorem State.setI_st : (s.setI w).st = s.st := rfl
@[simp] theorem State.setI_sta : (s.setI w).sta = s.sta := rfl
@[simp] theorem State.setI_status : (s.setI w).status = s.status := rfl
@[simp] theorem State.setI_mem : (s.setI w).mem = s.mem := rfl
@[simp] theorem State.setI_pix : (s.setI w).pix = s.pix := rfl
@[simp] theorem State.setI_dirty : (s.setI w).dirty = s.dirty := rfl
@[simp] theorem State.setI_keys : (s.setI w).keys = s.keys := rfl
@[simp] theorem State.setI_beepPending : (s.setI w).beepPending = s.beepPending := rfl
@[simp] theorem State.setI_log : (s.setI w).log = s.log := rfl
@[simp] theorem State.setI_elapsed : (s.setI w).elapsed = s.elapsed := rfl
@[simp] theorem State.setI_hostTurns : (s.setI w).hostTurns = s.hostTurns := rfl
@[simp] theorem State.setI_freeCount : (s.setI w).freeCount = s.freeCount := rfl

end

section
variable (s : State) (w : Word)

@[simp] theorem State.setPc_cfg : (s.setPc w).cfg = s.cfg := rfl
@[simp] theorem State.setPc_v : (s.setPc w).v = s.v := rfl
@[simp] theorem State.setPc_i : (s.setPc w).i = s.i := rfl
@[simp] theorem State.setPc_pc : (s.setPc w).pc = w := rfl
@[simp] theorem State.setPc_stack : (s.setPc w).stack = s.stack := rfl
@[simp] theorem State.setPc_sp : (s.setPc w).sp = s.sp := rfl
@[simp] theorem State.setPc_dt : (s.setPc w).dt = s.dt := rfl
@[simp] theorem State.setPc_dta : (s.setPc w).dta = s.dta := rfl
@[simp] theorem State.setPc_st : (s.setPc w).st = s.st := rfl
@[simp] theorem State.setPc_sta : (s.setPc w).sta = s.sta := rfl
@[simp] theorem State.setPc_status : (s.setPc w).status = s.status := rfl
@[simp] theorem State.setPc_mem : (s.setPc w).mem = s.mem := rfl
@[simp] theorem State.setPc_pix : (s.setPc w).pix = s.pix := rfl
@[simp] theorem State.setPc_dirty : (s.setPc w).dirty = s.dirty := rfl
@[simp] theorem State.setPc_keys : (s.setPc w).keys = s.keys := rfl
@[simp] theorem State.setPc_beepPending : (s.setPc w).beepPending = s.beepPending := rfl
@[simp] theorem State.setPc_log : (s.setPc w).log = s.log := rfl
@[simp] theorem State.setPc_elapsed : (s.setPc w).elapsed = s.elapsed := rfl
@[simp] theorem State.setPc_hostTurns : (s.setPc w).hostTurns = s.hostTurns := rfl
@[simp] theorem State.setPc_freeCount : (s.setPc w).freeCount = s.freeCount := rfl

end

section
variable (s : State)

@[simp] theorem State.advance_cfg : (s.advance).cfg = s.cfg := rfl
@[simp] theorem State.advance_v : (s.advance).v = s.v := rfl
@[simp] theorem State.advance_i : (s.advance).i = s.i := rfl
@[simp] theorem State.advance_pc : (s.advance).pc = s.pc + 2 := rfl
@[simp] theorem State.advance_stack : (s.advance).stack = s.stack := rfl
@[simp] theorem State.advance_sp : (s.advance).sp = s.sp := rfl
@[simp] theorem State.advance_dt : (s.advance).dt = s.dt := rfl
@[simp] theorem State.advance_dta : (s.advance).dta = s.dta := rfl
@[simp] theorem State.advance_st : (s.advance).st = s.st := rfl
@[simp] theorem State.advance_sta : (s.advance).sta = s.sta := rfl
@[simp] theorem State.advance_status : (s.advance).status = s.status := rfl
@[simp] theorem State.advance_mem : (s.advance).mem = s.mem := rfl
@[simp] theorem State.advance_pix : (s.advance).pix = s.pix := rfl
@[simp] theorem State.advance_dirty : (s.advance).dirty = s.dirty := rfl
@[simp] theorem State.advance_keys : (s.advance).keys = s.keys := rfl
@[simp] theorem State.advance_beepPending : (s.advance).beepPending = s.beepPending := rfl
@[simp] theorem State.advance_log : (s.advance).log = s.log := rfl
@[simp] theorem State.advance_elapsed : (s.advance).elapsed = s.elapsed := rfl
@[simp] theorem State.advance_hostTurns : (s.advance).hostTurns = s.hostTurns := rfl
@[simp] theorem State.advance_freeCount : (s.advance).freeCount = s.freeCount := rfl

end

section
variable (s : State) (c : Bool)

@[simp] theorem State.skipIf_cfg : (s.skipIf c).cfg = s.cfg := rfl
@[simp] theorem State.skipIf_v : (s.skipIf c).v = s.v := rfl
@[simp] theorem State.skipIf_i : (s.skipIf c).i = s.i := rfl
@[simp] theorem State.skipIf_pc : (s.skipIf c).pc = if c then s.pc + 4 else s.pc + 2 := rfl
@[simp] theorem State.skipIf_stack : (s.skipIf c).stack = s.stack := rfl
@[simp] theorem State.skipIf_sp : (s.skipIf c).sp = s.sp := rfl
@[simp] theorem State.skipIf_dt : (s.skipIf c).dt = s.dt := rfl
@[simp] theorem State.skipIf_dta : (s.skipIf c).dta = s.dta := rfl
@[simp] theorem State.skipIf_st : (s.skipIf c).st = s.st := rfl
@[simp] theorem State.skipIf_sta : (s.skipIf c).sta = s.sta := rfl
@[simp] theorem State.skipIf_status : (s.skipIf c).status = s.status := rfl
@[simp] theorem State.skipIf_mem : (s.skipIf c).mem = s.mem := rfl
@[simp] theorem State.skipIf_pix : (s.skipIf c).pix = s.pix := rfl
@[simp] theorem State.skipIf_dirty : (s.skipIf c).dirty = s.dirty := rfl
@[simp] theorem State.skipIf_keys : (s.skipIf c).keys = s.keys := rfl
@[simp] theorem State.skipIf_beepPending : (s.skipIf c).beepPending = s.beepPending := rfl
@[simp] theorem State.skipIf_log : (s.skipIf c).log = s.log := rfl
@[simp] theorem State.skipIf_elapsed : (s.skipIf c).elapsed = s.elapsed := rfl
@[simp] theorem State.skipIf_hostTurns : (s.skipIf c).hostTurns = s.hostTurns := rfl
@[simp] theorem State.skipIf_freeCount : (s.skipIf c).freeCount = s.freeCount := rfl

end

section
variable (s : State) (w : Word)

@[simp] theorem State.push_cfg : (s.push w).cfg = s.cfg := rfl
@[simp] theorem State.push_v : (s.push w).v = s.v := rfl
@[simp] theorem State.push_i : (s.push w).i = s.i := rfl
@[simp] theorem State.push_pc : (s.push w).pc = s.pc := rfl
@[simp] theorem State.push_sp : (s.push w).sp = s.sp + 1 := rfl
@[simp] theorem State.push_dt : (s.push w).dt = s.dt := rfl
@[simp] theorem State.push_dta : (s.push w).dta = s.dta := rfl
@[simp] theorem State.push_st : (s.push w).st = s.st := rfl
@[simp] theorem State.push_sta : (s.push w).sta = s.sta := rfl
@[simp] theorem State.push_status : (s.push w).status = s.status := rfl
@[simp] theorem State.push_mem : (s.push w).mem = s.mem := rfl
@[simp] theorem State.push_pix : (s.push w).pix = s.pix := rfl
@[simp] theorem State.push_dirty : (s.push w).dirty = s.dirty := rfl
@[simp] theorem State.push_keys : (s.push w).keys = s.keys := rfl
@[simp] theorem State.push_beepPending : (s.push w).beepPending = s.beepPending := rfl
@[simp] theorem State.push_log : (s.push w).log = s.log := rfl
@[simp] theorem State.push_elapsed : (s.push w).elapsed = s.elapsed := rfl
@[simp] theorem State.push_hostTurns : (s.push w).hostTurns = s.hostTurns := rfl
@[simp] theorem State.push_freeCount : (s.push w).freeCount = s.freeCount := rfl

end

section
variable (s : State)

@[simp] theorem State.drop_cfg : (s.drop).cfg = s.cfg := rfl
@[simp] theorem State.drop_v : (s.drop).v = s.v := rfl
@[simp] theorem State.drop_i : (s.drop).i = s.i := rfl
@[simp] theorem State.drop_pc : (s.drop).pc = s.pc := rfl
@[simp] theorem State.drop_stack : (s.drop).stack = s.stack := rfl
@[simp] theorem State.drop_sp : (s.drop).sp = s.sp - 1 := rfl
@[simp] theorem State.drop_dt : (s.drop).dt = s.dt := rfl
@[simp] theorem State.drop_dta : (s.drop).dta = s.dta := rfl
@[simp] theorem State.drop_st : (s.drop).st = s.st := rfl
@[simp] theorem State.drop_sta : (s.drop).sta = s.sta := rfl
@[simp] theorem State.drop_status : (s.drop).status = s.status := rfl
@[simp] theorem State.drop_mem : (s.drop).mem = s.mem := rfl
@[simp] theorem State.drop_pix : (s.drop).pix = s.pix := rfl
@[simp] theorem State.drop_dirty : (s.drop).dirty = s.dirty := rfl
@[simp] theorem State.drop_keys : (s.drop).keys = s.keys := rfl
@[simp] theorem State.drop_beepPending : (s.drop).beepPending = s.beepPending := rfl
@[simp] theorem State.drop_log : (s.drop).log = s.log := rfl
@[simp] theorem State.drop_elapsed : (s.drop).elapsed = s.elapsed := rfl
@[simp] theorem State.drop_hostTurns : (s.drop).hostTurns = s.hostTurns := rfl
@[simp] theorem State.drop_freeCount : (s.drop).freeCount = s.freeCount := rfl

end

section
variable (s : State) (b : Byte)

@[simp] theorem State.setDelay_cfg : (s.setDelay b).cfg = s.cfg := rfl
@[simp] theorem State.setDelay_v : (s.setDelay b).v = s.v := rfl
@[simp] theorem State.setDelay_i : (s.setDelay b).i = s.i := rfl
@[simp] theorem State.setDelay_pc : (s.setDelay b).pc = s.pc := rfl
@[simp] theorem State.setDelay_stack : (s.setDelay b).stack = s.stack := rfl
@[simp] theorem State.setDelay_sp : (s.setDelay b).sp = s.sp := rfl
@[simp] theorem State.setDelay_dt : (s.setDelay b).dt = b := rfl
@[simp] theorem State.setDelay_dta : (s.setDelay b).dta = (b.toNat : Rat) := rfl
@[simp] theorem State.setDelay_st : (s.setDelay b).st = s.st := rfl
@[simp] theorem State.setDelay_sta : (s.setDelay b).sta = s.sta := rfl
@[simp] theorem State.setDelay_status : (s.setDelay b).status = s.status := rfl
@[simp] theorem State.setDelay_mem : (s.setDelay b).mem = s.mem := rfl
@[simp] theorem State.setDelay_pix : (s.setDelay b).pix = s.pix := rfl
@[simp] theorem State.setDelay_dirty : (s.setDelay b).dirty = s.dirty := rfl
@[simp] theorem State.setDelay_keys : (s.setDelay b).keys = s.keys := rfl
@[simp] theorem State.setDelay_beepPending : (s.setDelay b).beepPending = s.beepPending := rfl
@[simp] theorem State.setDelay_log : (s.setDelay b).log = s.log := rfl
@[simp] theorem State.setDelay_elapsed : (s.setDelay b).elapsed = s.elapsed := rfl
@[simp] theorem State.setDelay_hostTurns : (s.setDelay b).hostTurns = s.hostTurns := rfl
@[simp] theorem State.setDelay_freeCount : (s.setDelay b).freeCount = s.freeCount := rfl

end

section
variable (s : State) (b : Byte)

@[simp] theorem State.setSound_cfg : (s.setSound b).cfg = s.cfg := rfl
@[simp] theorem State.setSound_v : (s.setSound b).v = s.v := rfl
@[simp] theorem State.setSound_i : (s.setSound b).i = s.i := rfl
@[simp] theorem State.setSound_pc : (s.setSound b).pc = s.pc := rfl
@[simp] theorem State.setSound_stack : (s.setSound b).stack = s.stack := rfl
@[simp] theorem State.setSound_sp : (s.setSound b).sp = s.sp := rfl
@[simp] theorem State.setSound_dt : (s.setSound b).dt = s.dt := rfl
@[simp] theorem State.setSound_dta : (s.setSound b).dta = s.dta := rfl
@[simp] theorem State.setSound_st : (s.setSound b).st = b := rfl
@[simp] theorem State.setSound_sta : (s.setSound b).sta = (b.toNat : Rat) := rfl
@[simp] theorem State.setSound_status : (s.setSound b).status = s.status := rfl
@[simp] theorem State.setSound_mem : (s.setSound b).mem = s.mem := rfl
@[simp] theorem State.setSound_pix : (s.setSound b).pix = s.pix := rfl
@[simp] theorem State.setSound_dirty : (s.setSound b).dirty = s.dirty := rfl
@[simp] theorem State.setSound_keys : (s.setSound b).keys = s.keys := rfl
@[simp] theorem State.setSound_beepPending : (s.setSound b).beepPending = s.beepPending := rfl
@[simp] theorem State.setSound_log : (s.setSound b).log = s.log := rfl
@[simp] theorem State.setSound_elapsed : (s.setSound b).elapsed = s.elapsed := rfl
@[simp] theorem State.setSound_hostTurns : (s.setSound b).hostTurns = s.hostTurns := rfl
@[simp] theorem State.setSound_freeCount : (s.setSound b).freeCount = s.freeCount := rfl

end

section
variable (s : State) (op : Word)

@[simp] theorem State.addLog_cfg : (s.addLog op).cfg = s.cfg := rfl
@[simp] theorem State.addLog_v : (s.addLog op).v = s.v := rfl
@[simp] theorem State.addLog_i : (s.addLog op).i = s.i := rfl
@[simp] theorem State.addLog_pc : (s.addLog op).pc = s.pc := rfl
@[simp] theorem State.addLog_stack : (s.addLog op).stack = s.stack := rfl
@[simp] theorem State.addLog_sp : (s.addLog op).sp = s.sp := rfl
@[simp] theorem State.addLog_dt : (s.addLog op).dt = s.dt := rfl
@[simp] theorem State.addLog_dta : (s.addLog op).dta = s.dta := rfl
@[simp] theorem State.addLog_st : (s.addLog op).st = s.st := rfl
@[simp] theorem State.addLog_sta : (s.addLog op).sta = s.sta := rfl
@[simp] theorem State.addLog_status : (s.addLog op).status = s.status := rfl
@[simp] theorem State.addLog_mem : (s.addLog op).mem = s.mem := rfl
@[simp] theorem State.addLog_pix : (s.addLog op).pix = s.pix := rfl
@[simp] theorem State.addLog_dirty : (s.addLog op).dirty = s.dirty := rfl
@[simp] theorem State.addLog_keys : (s.addLog op).keys = s.keys := rfl
@[simp] theorem State.addLog_beepPending : (s.addLog op).beepPending = s.beepPending := rfl
@[simp] theorem State.addLog_log : (s.addLog op).log = s.log ++ [⟨op, s.pc⟩] := rfl
@[simp] theorem State.addLog_elapsed : (s.addLog op).elapsed = s.elapsed := rfl
@[simp] theorem State.addLog_hostTurns : (s.addLog op).hostTurns = s.hostTurns := rfl
@[simp] theorem State.addLog_freeCount : (s.addLog op).freeCount = s.freeCount := rfl

end

section
variable (s : State)

@[simp] theorem State.clearDisplay_cfg : (s.clearDisplay).cfg = s.cfg := rfl
@[simp] theorem State.clearDisplay_v : (s.clearDisplay).v = s.v := rfl
@[simp] theorem State.clearDisplay_i : (s.clearDisplay).i = s.i := rfl
@[simp] theorem State.clearDisplay_pc : (s.clearDisplay).pc = s.pc := rfl
@[simp] theorem State.clearDisplay_stack : (s.clearDisplay).stack = s.stack := rfl
@[simp] theorem State.clearDisplay_sp : (s.clearDisplay).sp = s.sp := rfl
@[simp] theorem State.clearDisplay_dt : (s.clearDisplay).dt = s.dt := rfl
@[simp] theorem State.clearDisplay_dta : (s.clearDisplay).dta = s.dta := rfl
@[simp] theorem State.clearDisplay_st : (s.clearDisplay).st = s.st := rfl
@[simp] theorem State.clearDisplay_sta : (s.clearDisplay).sta = s.sta := rfl
@[simp] theorem State.clearDisplay_status : (s.clearDisplay).status = s.status := rfl
@[simp] theorem State.clearDisplay_mem : (s.clearDisplay).mem = s.mem := rfl
@[simp] theorem State.clearDisplay_pix : (s.clearDisplay).pix = [] := rfl
@[simp] theorem State.clearDisplay_dirty : (s.clearDisplay).dirty = true := rfl
@[simp] theorem State.clearDisplay_keys : (s.clearDisplay).keys = s.keys := rfl
@[simp] theorem State.clearDisplay_beepPending : (s.clearDisplay).beepPending = s.beepPending := rfl
@[simp] theorem State.clearDisplay_log : (s.clearDisplay).log = s.log := rfl
@[simp] theorem State.clearDisplay_elapsed : (s.clearDisplay).elapsed = s.elapsed := rfl
@[simp] theorem State.clearDisplay_hostTurns : (s.clearDisplay).hostTurns = s.hostTurns := rfl
@[simp] theorem State.clearDisplay_freeCount : (s.clearDisplay).freeCount = s.freeCount := rfl

end

section
variable (s : State) (d : Pixels)

@[simp] theorem State.drawn_cfg : (s.drawn d).cfg = s.cfg := rfl
@[simp] theorem State.drawn_v : (s.drawn d).v = s.v := rfl
@[simp] theorem State.drawn_i : (s.drawn d).i = s.i := rfl
@[simp] theorem State.drawn_pc : (s.drawn d).pc = s.pc := rfl
@[simp] theorem State.drawn_stack : (s.drawn d).stack = s.stack := rfl
@[simp] theorem State.drawn_sp : (s.drawn d).sp = s.sp := rfl
@[simp] theorem State.drawn_dt : (s.drawn d).dt = s.dt := rfl
@[simp] theorem State.drawn_dta : (s.drawn d).dta = s.dta := rfl
@[simp] theorem State.drawn_st : (s.drawn d).st = s.st := rfl
@[simp] theorem State.drawn_sta : (s.drawn d).sta = s.sta := rfl
@[simp] theorem State.drawn_status : (s.drawn d).status = s.status := rfl
@[simp] theorem State.drawn_mem : (s.drawn d).mem = s.mem := rfl
@[simp] theorem State.drawn_pix : (s.drawn d).pix = d := rfl
@[simp] theorem State.drawn_dirty : (s.drawn d).dirty = Config.dirtyAfterDraw s.freeCount := rfl
@[simp] theorem State.drawn_keys : (s.drawn d).keys = s.keys := rfl
@[simp] theorem State.drawn_beepPending : (s.drawn d).beepPending = s.beepPending := rfl
@[simp] theorem State.drawn_log : (s.drawn d).log = s.log := rfl
@[simp] theorem State.drawn_elapsed : (s.drawn d).elapsed = s.elapsed := rfl
@[simp] theorem State.drawn_hostTurns : (s.drawn d).hostTurns = s.hostTurns := rfl
@[simp] theorem State.drawn_freeCount : (s.drawn d).freeCount = s.freeCount + 1 := rfl

end

section
variable (s : State)

@[simp] theorem State.nextFree_cfg : (s.nextFree).cfg = s.cfg := rfl
@[simp] theorem State.nextFree_v : (s.nextFree).v = s.v := rfl
@[simp] theorem State.nextFree_i : (s.nextFree).i = s.i := rfl
@[simp] theorem State.nextFree_pc : (s.nextFree).pc = s.pc := rfl
@[simp] theorem State.nextFree_stack : (s.nextFree).stack = s.stack := rfl
@[simp] theorem State.nextFree_sp : (s.nextFree).sp = s.sp := rfl
@[simp] theorem State.nextFree_dt : (s.nextFree).dt = s.dt := rfl
@[simp] theorem State.nextFree_dta : (s.nextFree).dta = s.dta := rfl
@[simp] theorem State.nextFree_st : (s.nextFree).st = s.st := rfl
@[simp] theorem State.nextFree_sta : (s.nextFree).sta = s.sta := rfl
@[simp] theorem State.nextFree_status : (s.nextFree).status = s.status := rfl
@[simp] theorem State.nextFree_mem : (s.nextFree).mem = s.mem := rfl
@[simp] theorem State.nextFree_pix : (s.nextFree).pix = s.pix := rfl
@[simp] theorem State.nextFree_dirty : (s.nextFree).dirty = s.dirty := rfl
@[simp] theorem State.nextFree_keys : (s.nextFree).keys = s.keys := rfl
@[simp] theorem State.nextFree_beepPending : (s.nextFree).beepPending = s.beepPending := rfl
@[simp] theorem State.nextFree_log : (s.nextFree).log = s.log := rfl
@[simp] theorem State.nextFree_elapsed : (s.nextFree).elapsed = s.elapsed := rfl
@[simp] theorem State.nextFree_hostTurns : (s.nextFree).hostTurns = s.hostTurns := rfl
@[simp] theorem State.nextFree_freeCount : (s.nextFree).freeCount = s.freeCount + 1 := rfl

end

section
variable (s : State) (x : Reg)

@[simp] theorem State.stepI_cfg : (s.stepI x).cfg = s.cfg := rfl
@[simp] theorem State.stepI_v : (s.stepI x).v = s.v := rfl
@[simp] theorem State.stepI_i : (s.stepI x).i = s.i + BitVec.ofNat 16 (x.val + 1) := rfl
@[simp] theorem State.stepI_pc : (s.stepI x).pc = s.pc := rfl
@[simp] theorem State.stepI_stack : (s.stepI x).stack = s.stack := rfl
@[simp] theorem State.stepI_sp : (s.stepI x).sp = s.sp := rfl
@[simp] theorem State.stepI_dt : (s.stepI x).dt = s.dt := rfl
@[simp] theorem State.stepI_dta : (s.stepI x).dta = s.dta := rfl
@[simp] theorem State.stepI_st : (s.stepI x).st = s.st := rfl
@[simp] theorem State.stepI_sta : (s.stepI x).sta = s.sta := rfl
@[simp] theorem State.stepI_status : (s.stepI x).status = s.status := rfl
@[simp] theorem State.stepI_mem : (s.stepI x).mem = s.mem := rfl
@[simp] theorem State.stepI_pix : (s.stepI x).pix = s.pix := rfl
@[simp] theorem State.stepI_dirty : (s.stepI x).dirty = s.dirty := rfl
@[simp] theorem State.stepI_keys : (s.stepI x).keys = s.keys := rfl
@[simp] theorem State.stepI_beepPending : (s.stepI x).beepPending = s.beepPending := rfl
@[simp] theorem State.stepI_log : (s.stepI x).log = s.log := rfl
@[simp] theorem State.stepI_elapsed : (s.stepI x).elapsed = s.elapsed := rfl
@[simp] theorem State.stepI_hostTurns : (s.stepI x).hostTurns = s.hostTurns := rfl
@[simp] theorem State.stepI_freeCount : (s.stepI x).freeCount = s.freeCount := rfl

end

section
variable (s : State) (x : Reg)

@[simp] theorem State.loadFrom_cfg : (s.loadFrom x).cfg = s.cfg := rfl
@[simp] theorem State.loadFrom_v : (s.loadFrom x).v = loadLoop s.mem s.base (regsUpTo x) s.v := rfl
@[simp] theorem State.loadFrom_i : (s.loadFrom x).i = s.i := rfl
@[simp] theorem State.loadFrom_pc : (s.loadFrom x).pc = s.pc := rfl
@[simp] theorem State.loadFrom_stack : (s.loadFrom x).stack = s.stack := rfl
@[simp] theorem State.loadFrom_sp : (s.loadFrom x).sp = s.sp := rfl
@[simp] theorem State.loadFrom_dt : (s.loadFrom x).dt = s.dt := rfl
@[simp] theorem State.loadFrom_dta : (s.loadFrom x).dta = s.dta := rfl
@[simp] theorem State.loadFrom_st : (s.loadFrom x).st = s.st := rfl
@[simp] theorem State.loadFrom_sta : (s.loadFrom x).sta = s.sta := rfl
@[simp] theorem State.loadFrom_status : (s.loadFrom x).status = s.status := rfl
@[simp] theorem State.loadFrom_mem : (s.loadFrom x).mem = s.mem := rfl
@[simp] theorem State.loadFrom_pix : (s.loadFrom x).pix = s.pix := rfl
@[simp] theorem State.loadFrom_dirty : (s.loadFrom x).dirty = s.dirty := rfl
@[simp] theorem State.loadFrom_keys : (s.loadFrom x).keys = s.keys := rfl
@[simp] theorem State.loadFrom_beepPending : (s.loadFrom x).beepPending = s.beepPending := rfl
@[simp] theorem State.loadFrom_log : (s.loadFrom x).log = s.log := rfl
@[simp] theorem State.loadFrom_elapsed : (s.loadFrom x).elapsed = s.elapsed := rfl
@[simp] theorem State.loadFrom_hostTurns : (s.loadFrom x).hostTurns = s.hostTurns := rfl
@[simp] theorem State.loadFrom_freeCount : (s.loadFrom x).freeCount = s.freeCount := rfl

end

section
variable (s : State) (u : Rat)

@[simp] theorem State.decayDelay_cfg : (s.decayDelay u).cfg = s.cfg := rfl
@[simp] theorem State.decayDelay_v : (s.decayDelay u).v = s.v := rfl
@[simp] theorem State.decayDelay_i : (s.decayDelay u).i = s.i := rfl
@[simp] theorem State.decayDelay_pc : (s.decayDelay u).pc = s.pc := rfl
@[simp] theorem State.decayDelay_stack : (s.decayDelay u).stack = s.stack := rfl
@[simp] theorem State.decayDelay_sp : (s.decayDelay u).sp = s.sp := rfl
@[simp] theorem State.decayDelay_dt : (s.decayDelay u).dt = delayValue (decay s.cfg.accFormat s.dta u) := rfl
@[simp] theorem State.decayDelay_dta : (s.decayDelay u).dta = decay s.cfg.accFormat s.dta u := rfl
@[simp] theorem State.decayDelay_st : (s.decayDelay u).st = s.st := rfl
@[simp] theorem State.decayDelay_sta : (s.decayDelay u).sta = s.sta := rfl
@[simp] theorem State.decayDelay_status : (s.decayDelay u).status = s.status := rfl
@[simp] theorem State.decayDelay_mem : (s.decayDelay u).mem = s.mem := rfl
@[simp] theorem State.decayDelay_pix : (s.decayDelay u).pix = s.pix := rfl
@[simp] theorem State.decayDelay_dirty : (s.decayDelay u).dirty = s.dirty := rfl
@[simp] theorem State.decayDelay_keys : (s.decayDelay u).keys = s.keys := rfl
@[simp] theorem State.decayDelay_beepPending : (s.decayDelay u).beepPending = s.beepPending := rfl
@[simp] theorem State.decayDelay_log : (s.decayDelay u).log = s.log := rfl
@[simp] theorem State.decayDelay_elapsed : (s.decayDelay u).elapsed = s.elapsed := rfl
@[simp] theorem State.decayDelay_hostTurns : (s.decayDelay u).hostTurns = s.hostTurns := rfl
@[simp] theorem State.decayDelay_freeCount : (s.decayDelay u).freeCount = s.freeCount := rfl

end

section
variable (s : State) (u : Rat)

@[simp] theorem State.decaySound_cfg : (s.decaySound u).cfg = s.cfg := rfl
@[simp] theorem State.decaySound_v : (s.decaySound u).v = s.v := rfl
@[simp] theorem State.decaySound_i : (s.decaySound u).i = s.i := rfl
@[simp] theorem State.decaySound_pc : (s.decaySound u).pc = s.pc := rfl
@[simp] theorem State.decaySound_stack : (s.decaySound u).stack = s.stack := rfl
@[simp] theorem State.decaySound_sp : (s.decaySound u).sp = s.sp := rfl
@[simp] theorem State.decaySound_dt : (s.decaySound u).dt = s.dt := rfl
@[simp] theorem State.decaySound_dta : (s.decaySound u).dta = s.dta := rfl
@[simp] theorem State.decaySound_st : (s.decaySound u).st = soundValue (decay s.cfg.accFormat s.sta u) := rfl
@[simp] theorem State.decaySound_sta : (s.decaySound u).sta = decay s.cfg.accFormat s.sta u := rfl
@[simp] theorem State.decaySound_status : (s.decaySound u).status = s.status := rfl
@[simp] theorem State.decaySound_mem : (s.decaySound u).mem = s.mem := rfl
@[simp] theorem State.decaySound_pix : (s.decaySound u).pix = s.pix := rfl
@[simp] theorem State.decaySound_dirty : (s.decaySound u).dirty = s.dirty := rfl
@[simp] theorem State.decaySound_keys : (s.decaySound u).keys = s.keys := rfl
@[simp] theorem State.decaySound_beepPending : (s.decaySound u).beepPending = s.beepPending := rfl
@[simp] theorem State.decaySound_log : (s.decaySound u).log = s.log := rfl
@[simp] theorem State.decaySound_elapsed : (s.decaySound u).elapsed = s.elapsed := rfl
@[simp] theorem State.decaySound_hostTurns : (s.decaySound u).hostTurns = s.hostTurns := rfl
@[simp] theorem State.decaySound_freeCount : (s.decaySound u).freeCount = s.freeCount := rfl

end

section
variable (s : State) (c : Bool)

@[simp] theorem State.queueBeepIf_cfg : (s.queueBeepIf c).cfg = s.cfg := rfl
@[simp] theorem State.queueBeepIf_v : (s.queueBeepIf c).v = s.v := rfl
@[simp] theorem State.queueBeepIf_i : (s.queueBeepIf c).i = s.i := rfl
@[simp] theorem State.queueBeepIf_pc : (s.queueBeepIf c).pc = s.pc := rfl
@[simp] theorem State.queueBeepIf_stack : (s.queueBeepIf c).stack = s.stack := rfl
@[simp] theorem State.queueBeepIf_sp : (s.queueBeepIf c).sp = s.sp := rfl
@[simp] theorem State.queueBeepIf_dt : (s.queueBeepIf c).dt = s.dt := rfl
@[simp] theorem State.queueBeepIf_dta : (s.queueBeepIf c).dta = s.dta := rfl
@[simp] theorem State.queueBeepIf_st : (s.queueBeepIf c).st = s.st := rfl
@[simp] theorem State.queueBeepIf_sta : (s.queueBeepIf c).sta = s.sta := rfl
@[simp] theorem State.queueBeepIf_status : (s.queueBeepIf c).status = s.status := rfl
@[simp] theorem State.queueBeepIf_mem : (s.queueBeepIf c).mem = s.mem := rfl
@[simp] theorem State.queueBeepIf_pix : (s.queueBeepIf c).pix = s.pix := rfl
@[simp] theorem State.queueBeepIf_dirty : (s.queueBeepIf c).dirty = s.dirty := rfl
@[simp] theorem State.queueBeepIf_keys : (s.queueBeepIf c).keys = s.keys := rfl
@[simp] theorem State.queueBeepIf_beepPending : (s.queueBeepIf c).beepPending = (s.beepPending || c) := rfl
@[simp] theorem State.queueBeepIf_log : (s.queueBeepIf c).log = s.log := rfl
@[simp] theorem State.queueBeepIf_elapsed : (s.queueBeepIf c).elapsed = s.elapsed := rfl
@[simp] theorem State.queueBeepIf_hostTurns : (s.queueBeepIf c).hostTurns = s.hostTurns := rfl
@[simp] theorem State.queueBeepIf_freeCount : (s.queueBeepIf c).freeCount = s.freeCount := rfl

end

section
variable (k : FaultKind) (op : Option Word) (s : State)

@[simp] theorem raise_cfg : (raise k op s).cfg = s.cfg := rfl
@[simp] theorem raise_v : (raise k op s).v = s.v := rfl
@[simp] theorem raise_i : (raise k op s).i = s.i := rfl
@[simp] theorem raise_pc : (raise k op s).pc = s.pc := rfl
@[simp] theorem raise_stack : (raise k op s).stack = s.stack := rfl
@[simp] theorem raise_sp : (raise k op s).sp = s.sp := rfl
@[simp] theorem raise_dt : (raise k op s).dt = s.dt := rfl
@[simp] theorem raise_dta : (raise k op s).dta = s.dta := rfl
@[simp] theorem raise_st : (raise k op s).st = s.st := rfl
@[simp] theorem raise_sta : (raise k op s).sta = s.sta := rfl
@[simp] theorem raise_status : (raise k op s).status = .faulted ⟨k, op, s.pc⟩ := rfl
@[simp] theorem raise_mem : (raise k op s).mem = s.mem := rfl
@[simp] theorem raise_pix : (raise k op s).pix = s.pix := rfl
@[simp] theorem raise_dirty : (raise k op s).dirty = s.dirty := rfl
@[simp] theorem raise_keys : (raise k op s).keys = s.keys := rfl
@[simp] theorem raise_beepPending : (raise k op s).beepPending = s.beepPending := rfl
@[simp] theorem raise_log : (raise k op s).log = s.log := rfl
@[simp] theorem raise_elapsed : (raise k op s).elapsed = s.elapsed := rfl
@[simp] theorem raise_hostTurns : (raise k op s).hostTurns = s.hostTurns := rfl
@[simp] theorem raise_freeCount : (raise k op s).freeCount = s.freeCount := rfl

end

section
variable (s : State) (x : Reg) (b : Byte) (c : Bool)

@[simp] theorem State.writeResult_cfg : (s.writeResult x b c).cfg = s.cfg := rfl
@[simp] theorem State.writeResult_i : (s.writeResult x b c).i = s.i := rfl
@[simp] theorem State.writeResult_pc : (s.writeResult x b c).pc = s.pc := rfl
@[simp] theorem State.writeResult_stack : (s.writeResult x b c).stack = s.stack := rfl
@[simp] theorem State.writeResult_sp : (s.writeResult x b c).sp = s.sp := rfl
@[simp] theorem State.writeResult_dt : (s.writeResult x b c).dt = s.dt := rfl
@[simp] theorem State.writeResult_dta : (s.writeResult x b c).dta = s.dta := rfl
@[simp] theorem State.writeResult_st : (s.writeResult x b c).st = s.st := rfl
@[simp] theorem State.writeResult_sta : (s.writeResult x b c).sta = s.sta := rfl
@[simp] theorem State.writeResult_status : (s.writeResult x b c).status = s.status := rfl
@[simp] theorem State.writeResult_mem : (s.writeResult x b c).mem = s.mem := rfl
@[simp] theorem State.writeResult_pix : (s.writeResult x b c).pix = s.pix := rfl
@[simp] theorem State.writeResult_dirty : (s.writeResult x b c).dirty = s.dirty := rfl
@[simp] theorem State.writeResult_keys : (s.writeResult x b c).keys = s.keys := rfl
@[simp] theorem State.writeResult_beepPending : (s.writeResult x b c).beepPending = s.beepPending := rfl
@[simp] theorem State.writeResult_log : (s.writeResult x b c).log = s.log := rfl
@[simp] theorem State.writeResult_elapsed : (s.writeResult x b c).elapsed = s.elapsed := rfl
@[simp] theorem State.writeResult_hostTurns : (s.writeResult x b c).hostTurns = s.hostTurns := rfl
@[simp] theorem State.writeResult_freeCount : (s.writeResult x b c).freeCount = s.freeCount := rfl

end

section
variable (ms : Rat) (s : State)

@[simp] theorem timerPhase_cfg : (timerPhase ms s).cfg = s.cfg := rfl
@[simp] theorem timerPhase_v : (timerPhase ms s).v = s.v := rfl
@[simp] theorem timerPhase_i : (timerPhase ms s).i = s.i := rfl
@[simp] theorem timerPhase_pc : (timerPhase ms s).pc = s.pc := rfl
@[simp] theorem timerPhase_stack : (timerPhase ms s).stack = s.stack := rfl
@[simp] theorem timerPhase_sp : (timerPhase ms s).sp = s.sp := rfl
@[simp] theorem timerPhase_status : (timerPhase ms s).status = s.status := rfl
@[simp] theorem timerPhase_mem : (timerPhase ms s).mem = s.mem := rfl
@[simp] theorem timerPhase_pix : (timerPhase ms s).pix = s.pix := rfl
@[simp] theorem timerPhase_dirty : (timerPhase ms s).dirty = s.dirty := rfl
@[simp] theorem timerPhase_keys : (timerPhase ms s).keys = s.keys := rfl
@[simp] theorem timerPhase_log : (timerPhase ms s).log = s.log := rfl
@[simp] theorem timerPhase_elapsed : (timerPhase ms s).elapsed = s.elapsed := rfl
@[simp] theorem timerPhase_hostTurns : (timerPhase ms s).hostTurns = s.hostTurns := rfl
@[simp] theorem timerPhase_freeCount : (timerPhase ms s).freeCount = s.freeCount := rfl
@[simp] theorem timerPhase_dta :
    (timerPhase ms s).dta = decay s.cfg.accFormat s.dta (timerUnits s.cfg.accFormat ms) := rfl
@[simp] theorem timerPhase_sta :
    (timerPhase ms s).sta = decay s.cfg.accFormat s.sta (timerUnits s.cfg.accFormat ms) := rfl
theorem timerPhase_dt : (timerPhase ms s).dt = delayValue (timerPhase ms s).dta := rfl
theorem timerPhase_st : (timerPhase ms s).st = soundValue (timerPhase ms s).sta := rfl
theorem timerPhase_beepPending :
    (timerPhase ms s).beepPending = (s.beepPending || beeps s.st (timerPhase ms s).st) := rfl

end


/-! Reading a register after an update. -/

theorem State.readV_writeV (s : State) (r q : Reg) (b : Byte) :
    (s.writeV r b).readV q = if q = r then b else s.readV q := by
  unfold State.readV State.writeV
  simp only [Vector.getElem_set]
  by_cases h : q = r
  · subst h; simp
  · have : ¬ r.val = q.val := fun e => h (Fin.ext e.symm)
    simp [h, this]

@[simp] theorem State.readV_writeV_same (s : State) (r : Reg) (b : Byte) :
    (s.writeV r b).readV r = b := by simp [State.readV_writeV]

theorem State.readV_writeV_other (s : State) {r q : Reg} (b : Byte) (h : q ≠ r) :
    (s.writeV r b).readV q = s.readV q := by simp [State.readV_writeV, h]

/-- R142: VF ends holding the flag; another destination keeps the result. -/
theorem State.readV_writeResult (s : State) (x q : Reg) (b : Byte) (c : Bool) :
    (s.writeResult x b c).readV q =
      if q = vF then flagByte c else if q = x then b else s.readV q := by
  simp [State.writeResult, State.readV_writeV]


@[simp] theorem State.readV_setMem (s : State) (m : Memory) (q : Reg) : (s.setMem m).readV q = s.readV q := rfl
@[simp] theorem State.readV_setI (s : State) (w : Word) (q : Reg) : (s.setI w).readV q = s.readV q := rfl
@[simp] theorem State.readV_setPc (s : State) (w : Word) (q : Reg) : (s.setPc w).readV q = s.readV q := rfl
@[simp] theorem State.readV_advance (s : State) (q : Reg) : (s.advance).readV q = s.readV q := rfl
@[simp] theorem State.readV_skipIf (s : State) (c : Bool) (q : Reg) : (s.skipIf c).readV q = s.readV q := rfl
@[simp] theorem State.readV_push (s : State) (w : Word) (q : Reg) : (s.push w).readV q = s.readV q := rfl
@[simp] theorem State.readV_drop (s : State) (q : Reg) : (s.drop).readV q = s.readV q := rfl
@[simp] theorem State.readV_setDelay (s : State) (b : Byte) (q : Reg) : (s.setDelay b).readV q = s.readV q := rfl
@[simp] theorem State.readV_setSound (s : State) (b : Byte) (q : Reg) : (s.setSound b).readV q = s.readV q := rfl
@[simp] theorem State.readV_addLog (s : State) (op : Word) (q : Reg) : (s.addLog op).readV q = s.readV q := rfl
@[simp] theorem State.readV_clearDisplay (s : State) (q : Reg) : (s.clearDisplay).readV q = s.readV q := rfl
@[simp] theorem State.readV_drawn (s : State) (d : Pixels) (q : Reg) : (s.drawn d).readV q = s.readV q := rfl
@[simp] theorem State.readV_nextFree (s : State) (q : Reg) : (s.nextFree).readV q = s.readV q := rfl
@[simp] theorem State.readV_stepI (s : State) (x : Reg) (q : Reg) : (s.stepI x).readV q = s.readV q := rfl
@[simp] theorem State.readV_decayDelay (s : State) (u : Rat) (q : Reg) : (s.decayDelay u).readV q = s.readV q := rfl
@[simp] theorem State.readV_decaySound (s : State) (u : Rat) (q : Reg) : (s.decaySound u).readV q = s.readV q := rfl
@[simp] theorem State.readV_queueBeepIf (s : State) (c : Bool) (q : Reg) : (s.queueBeepIf c).readV q = s.readV q := rfl
@[simp] theorem readV_raise (k : FaultKind) (op : Option Word) (s : State) (q : Reg) : (raise k op s).readV q = s.readV q := rfl
@[simp] theorem readV_timerPhase (ms : Rat) (s : State) (q : Reg) : (timerPhase ms s).readV q = s.readV q := rfl

/-! Reading a byte of memory after an update that is not a store. -/

@[simp] theorem State.byteAt_writeV (s : State) (r : Reg) (b : Byte) (a : Nat) : (s.writeV r b).byteAt a = s.byteAt a := rfl
@[simp] theorem State.byteAt_setI (s : State) (w : Word) (a : Nat) : (s.setI w).byteAt a = s.byteAt a := rfl
@[simp] theorem State.byteAt_setPc (s : State) (w : Word) (a : Nat) : (s.setPc w).byteAt a = s.byteAt a := rfl
@[simp] theorem State.byteAt_advance (s : State) (a : Nat) : (s.advance).byteAt a = s.byteAt a := rfl
@[simp] theorem State.byteAt_skipIf (s : State) (c : Bool) (a : Nat) : (s.skipIf c).byteAt a = s.byteAt a := rfl
@[simp] theorem State.byteAt_push (s : State) (w : Word) (a : Nat) : (s.push w).byteAt a = s.byteAt a := rfl
@[simp] theorem State.byteAt_drop (s : State) (a : Nat) : (s.drop).byteAt a = s.byteAt a := rfl
@[simp] theorem State.byteAt_setDelay (s : State) (b : Byte) (a : Nat) : (s.setDelay b).byteAt a = s.byteAt a := rfl
@[simp] theorem State.byteAt_setSound (s : State) (b : Byte) (a : Nat) : (s.setSound b).byteAt a = s.byteAt a := rfl
@[simp] theorem State.byteAt_addLog (s : State) (op : Word) (a : Nat) : (s.addLog op).byteAt a = s.byteAt a := rfl
@[simp] theorem State.byteAt_clearDisplay (s : State) (a : Nat) : (s.clearDisplay).byteAt a = s.byteAt a := rfl
@[simp] theorem State.byteAt_drawn (s : State) (d : Pixels) (a : Nat) : (s.drawn d).byteAt a = s.byteAt a := rfl
@[simp] theorem State.byteAt_nextFree (s : State) (a : Nat) : (s.nextFree).byteAt a = s.byteAt a := rfl
@[simp] theorem State.byteAt_stepI (s : State) (x : Reg) (a : Nat) : (s.stepI x).byteAt a = s.byteAt a := rfl
@[simp] theorem State.byteAt_loadFrom (s : State) (x : Reg) (a : Nat) : (s.loadFrom x).byteAt a = s.byteAt a := rfl
@[simp] theorem State.byteAt_decayDelay (s : State) (u : Rat) (a : Nat) : (s.decayDelay u).byteAt a = s.byteAt a := rfl
@[simp] theorem State.byteAt_decaySound (s : State) (u : Rat) (a : Nat) : (s.decaySound u).byteAt a = s.byteAt a := rfl
@[simp] theorem State.byteAt_queueBeepIf (s : State) (c : Bool) (a : Nat) : (s.queueBeepIf c).byteAt a = s.byteAt a := rfl
@[simp] theorem State.byteAt_setMem (s : State) (m : Memory) (a : Nat) : (s.setMem m).byteAt a = Memory.read m a := rfl
@[simp] theorem byteAt_raise (k : FaultKind) (op : Option Word) (s : State) (a : Nat) : (raise k op s).byteAt a = s.byteAt a := rfl
@[simp] theorem byteAt_timerPhase (ms : Rat) (s : State) (a : Nat) : (timerPhase ms s).byteAt a = s.byteAt a := rfl

end Sys2Proof.Machine
end

