-- ==== Sys2Proof/Laws/Cycle.lean ====
section
/-! SUPPORT. What one step can do, said once: the step's inversion, and the pieces around Execute. -/

namespace Sys2Proof.Machine

theorem odd_iff (w : Word) : w.getLsbD 0 = true ↔ w.toNat % 2 = 1 := by
  simp [BitVec.getLsbD, Nat.testBit_zero]

/-- R92: the three outcomes of a fetch. -/
theorem fetch_misaligned {s : State} (h : s.pc.toNat % 2 = 1) : fetch s = .error .pcMisaligned := by
  unfold fetch
  rw [if_pos ((odd_iff s.pc).mpr h)]

theorem not_odd {w : Word} (h : w.toNat % 2 = 0) : ¬ w.getLsbD 0 = true := by
  rw [odd_iff]
  omega

theorem fetch_outOfRange {s : State} (h : s.pc.toNat % 2 = 0) (hm : s.cfg.memSize ≤ s.pc.toNat + 1) :
    fetch s = .error .fetchOutOfRange := by
  unfold fetch
  rw [if_neg (not_odd h), if_pos hm]

theorem fetch_ok {s : State} (h : s.pc.toNat % 2 = 0) (hm : s.pc.toNat + 1 < s.cfg.memSize) :
    fetch s = .ok (bigEndian (s.byteAt s.pc.toNat) (s.byteAt (s.pc.toNat + 1))) := by
  unfold fetch
  rw [if_neg (not_odd h), if_neg (by omega)]

/-- R99: nothing follows a fault. -/
theorem endOfStep_faulted {t : State} (ms : Rat) {r : FaultRecord} (h : t.status = .faulted r) :
    endOfStep ms t = t := by
  unfold endOfStep
  rw [h]

/-- R97: the timer phase follows every Execute that raised no fault. -/
theorem endOfStep_running {t : State} (ms : Rat) (h : ∀ r, t.status ≠ .faulted r) :
    endOfStep ms t = timerPhase ms t := by
  unfold endOfStep
  cases hs : t.status with
  | faulted r => exact absurd hs (h r)
  | unloaded => rfl
  | running => rfl

/-- Everything a step that answers a next state has done (R90 to R100). -/
theorem step_cases {s t : State} (h : step s = .next t) :
    ∃ (s' : State) (ms : Rat), (∀ r, s.status ≠ .faulted r) ∧ hostTurn s = .ok s' ∧
      s'.status = .running ∧ s'.elapsed = .finite ms ∧ 0 ≤ ms ∧
      ((∃ k, fetch s' = .error k ∧ t = raise k none s') ∨
       (∃ op u, fetch s' = .ok op ∧ exec (decode op) s' = .next u ∧
          t = endOfStep ms u)) := by
  have main : ∀ s', engineStep exec s' = .next t → ∃ ms, s'.status = .running ∧
      s'.elapsed = .finite ms ∧ 0 ≤ ms ∧
      ((∃ k, fetch s' = .error k ∧ t = raise k none s') ∨
       (∃ op u, fetch s' = .ok op ∧ exec (decode op) s' = .next u ∧
          t = endOfStep ms u)) := by
    intro s' h
    unfold engineStep at h
    cases hs : s'.status with
    | unloaded => rw [hs] at h; cases h
    | faulted r => rw [hs] at h; cases h
    | running =>
      rw [hs] at h
      cases he : s'.elapsed with
      | nonFinite => rw [he] at h; cases h
      | finite ms =>
        rw [he] at h
        dsimp only at h
        split at h
        · cases h
        · rename_i hms
          refine ⟨ms, rfl, rfl, not_lt.mp hms, ?_⟩
          unfold fetchExecute at h
          cases hf : fetch s' with
          | error k =>
            rw [hf] at h
            injection h with h
            exact .inl ⟨k, rfl, h.symm⟩
          | ok op =>
            rw [hf] at h
            dsimp only at h
            cases hx : exec (decode op) s' with
            | next u =>
              rw [hx] at h
              injection h with h
              exact .inr ⟨op, u, rfl, hx, h.symm⟩
            | fault r => rw [hx] at h; cases h
            | refused r => rw [hx] at h; cases h
  have turn : (∀ r, s.status ≠ .faulted r) →
      (match hostTurn s with
        | .error e => Host.Outcome.fault (Fault.loadFailed e)
        | .ok t => engineStep exec t) = (.next t : Res) →
      ∃ s', hostTurn s = .ok s' ∧ engineStep exec s' = .next t := by
    intro _ h
    cases ht : hostTurn s with
    | error e => rw [ht] at h; cases h
    | ok s' => rw [ht] at h; exact ⟨s', rfl, h⟩
  unfold step cycle at h
  cases hs : s.status with
  | faulted r => rw [hs] at h; cases h
  | unloaded =>
    rw [hs] at h
    obtain ⟨s', ht, he⟩ := turn (by simp [hs]) h
    obtain ⟨ms, hm⟩ := main s' he
    exact ⟨s', ms, by simp, ht, hm⟩
  | running =>
    rw [hs] at h
    obtain ⟨s', ht, he⟩ := turn (by simp [hs]) h
    obtain ⟨ms, hm⟩ := main s' he
    exact ⟨s', ms, by simp, ht, hm⟩

/-- A running engine with no host turn waiting fetches at once. -/
theorem step_of_running {s : State} {ms : Rat} (hs : s.status = .running) (ht : s.hostTurns = [])
    (he : s.elapsed = .finite ms) (hms : 0 ≤ ms) : step s = fetchExecute exec ms s := by
  simp [step, cycle, hs, hostTurn, ht, engineStep, he, not_lt.mpr hms]

theorem fetchExecute_ok {s : State} {op : Word} (ms : Rat) (hf : fetch s = .ok op) :
    fetchExecute exec ms s = afterExecute ms (exec (decode op) s) := by
  simp [fetchExecute, hf]

theorem fetchExecute_error {s : State} {k : FaultKind} (ms : Rat) (hf : fetch s = .error k) :
    fetchExecute exec ms s = .next (raise k none s) := by
  simp [fetchExecute, hf]

/-! ## Runs -/

theorem run_next_of (M : Host.Core) (k : Nat) (s t : M.State) (h : M.step s = .next t) :
    M.run (k + 1) s = M.run k t := by
  rw [Host.Core.run, h]

theorem run_fault_of (M : Host.Core) (k : Nat) (s : M.State) (r : M.Fault) (h : M.step s = .fault r) :
    M.run (k + 1) s = .fault r := by
  rw [Host.Core.run, h]

/-- A run goes on from the next state. -/
theorem run_next {k : Nat} {s t : State} (h : step s = .next t) :
    Host.Core.run Sys2Proof.core (k + 1) s = Host.Core.run Sys2Proof.core k t :=
  run_next_of Sys2Proof.core k s t h

/-- A run ends with the first fault. -/
theorem run_fault {k : Nat} {s : State} {r : Fault} (h : step s = .fault r) :
    Host.Core.run Sys2Proof.core (k + 1) s = .fault r :=
  run_fault_of Sys2Proof.core k s r h

end Sys2Proof.Machine
end

