-- ==== Sys2Proof/Laws/Display.lean ====
section
/-! SUPPORT. The laws of the display's grid: what a toggle does to each pixel, and that drawing keeps the canonical form. -/

namespace Sys2Proof.Machine

theorem Pixel.before_iff {p q : Pixel} : p.before q = true ↔ p.y < q.y ∨ (p.y = q.y ∧ p.x < q.x) := by
  simp [Pixel.before]

theorem Pixel.before_trans {p q r : Pixel} (h : p.before q = true) (g : q.before r = true) :
    p.before r = true := by
  rw [Pixel.before_iff] at *
  omega

theorem Pixel.not_before_self (p : Pixel) : p.before p = false := by simp [Pixel.before]

theorem Pixel.before_of_not {p q : Pixel} (hne : p ≠ q) (h : p.before q = false) : q.before p = true := by
  rw [Pixel.before_iff]
  have hn : ¬ (p.y < q.y ∨ (p.y = q.y ∧ p.x < q.x)) := by rw [← Pixel.before_iff]; simp [h]
  have : p.x ≠ q.x ∨ p.y ≠ q.y := by
    by_contra hc
    apply hne
    cases p; cases q
    simp_all
  omega

namespace Pixels

theorem wf_cons {p : Pixel} {r : Pixels} :
    wf (p :: r) = true ↔ (∀ q ∈ r, p.before q = true) ∧ wf r = true := by
  simp [wf]

theorem lit_iff {d : Pixels} {p : Pixel} : lit d p = true ↔ p ∈ d := by simp [lit]

theorem mem_toggle {d : Pixels} (hw : wf d = true) {p q : Pixel} :
    q ∈ toggle d p ↔ (if q = p then p ∉ d else q ∈ d) := by
  induction d with
  | nil => by_cases h : q = p <;> simp [toggle, h]
  | cons c r ih =>
    obtain ⟨hall, hr⟩ := wf_cons.mp hw
    have notin : ∀ x : Pixel, x.before c = true ∨ x = c → x ∉ r := by
      intro x hx hm
      rcases hx with hx | rfl
      · have := Pixel.before_trans hx (hall x hm)
        simp [Pixel.not_before_self] at this
      · have := hall x hm
        simp [Pixel.not_before_self] at this
    unfold toggle
    split
    · rename_i h
      subst h
      by_cases hq : q = p
      · subst hq; simp [notin q (.inr rfl)]
      · simp [hq]
    · rename_i hpc
      split
      · rename_i hb
        by_cases hq : q = p
        · subst hq; simp [hpc, notin q (.inl hb)]
        · simp [hq]
      · by_cases hq : q = p
        · subst hq
          simp [hpc, ih hr]
        · simp [hq, ih hr]

/-- A toggle flips its own pixel and no other. -/
theorem lit_toggle {d : Pixels} (hw : wf d = true) (p q : Pixel) :
    lit (toggle d p) q = if q = p then !lit d q else lit d q := by
  have h := mem_toggle hw (p := p) (q := q)
  rw [Bool.eq_iff_iff, lit_iff, h]
  by_cases hq : q = p
  · subst hq
    by_cases hm : q ∈ d <;> simp [hm, lit]
  · simp [hq, lit]

theorem mem_of_mem_toggle {d : Pixels} {p q : Pixel} (h : q ∈ toggle d p) : q = p ∨ q ∈ d := by
  induction d with
  | nil => simpa [toggle] using h
  | cons c r ih =>
    unfold toggle at h
    split at h
    · exact .inr (List.mem_cons_of_mem _ h)
    · split at h
      · exact List.mem_cons.mp h
      · rcases List.mem_cons.mp h with h | h
        · exact .inr (h ▸ List.mem_cons_self)
        · exact (ih h).imp_right (List.mem_cons_of_mem _)

/-- A toggle keeps the row order. -/
theorem wf_toggle {d : Pixels} (hw : wf d = true) (p : Pixel) : wf (toggle d p) = true := by
  induction d with
  | nil => simp [toggle, wf]
  | cons c r ih =>
    obtain ⟨hall, hr⟩ := wf_cons.mp hw
    unfold toggle
    split
    · exact hr
    · rename_i hpc
      split
      · rename_i hb
        refine wf_cons.mpr ⟨?_, hw⟩
        intro q hq
        rcases List.mem_cons.mp hq with rfl | hq
        · exact hb
        · exact Pixel.before_trans hb (hall q hq)
      · rename_i hb
        refine wf_cons.mpr ⟨?_, ih hr⟩
        intro q hq
        rcases mem_of_mem_toggle hq with rfl | hq
        · exact Pixel.before_of_not hpc (by simpa using hb)
        · exact hall q hq

theorem within_toggle {d : Pixels} {w h : Nat} (hd : within d w h = true) {p : Pixel} (hx : p.x < w)
    (hy : p.y < h) : within (toggle d p) w h = true := by
  simp only [within, List.all_eq_true, Bool.and_eq_true, decide_eq_true_eq] at hd ⊢
  intro q hq
  rcases mem_of_mem_toggle hq with rfl | hq
  · exact ⟨hx, hy⟩
  · exact hd q hq

end Pixels

/-! ## Drawing -/

/-- A property of the grid that toggling pixels of the display keeps is kept by a whole draw. -/
theorem drawRows_induction (w h vx : Nat) (P : Pixels → Prop) (hw : 0 < w) (hh : 0 < h)
    (step : ∀ d p, P d → p.x < w → p.y < h → P (Pixels.toggle d p)) (vy : Nat) (rows : List Byte)
    (a : Pixels × Bool) (ha : P a.1) : P (drawRows w h vx vy rows a).1 := by
  have hrow : ∀ (row : Byte) (y : Nat), y < h → ∀ (cols : List Nat) (a : Pixels × Bool), P a.1 →
      P (cols.foldl (fun acc col =>
        if row.getLsbD (7 - col) then xorPixel ⟨(vx + col) % w, y⟩ acc else acc) a).1 := by
    intro row y hy cols
    induction cols with
    | nil => intro a ha; exact ha
    | cons c cs ih =>
      intro a ha
      apply ih
      dsimp only
      split
      · exact step _ _ ha (Nat.mod_lt _ hw) hy
      · exact ha
  induction rows generalizing vy a with
  | nil => exact ha
  | cons row rest ih => exact ih (vy + 1) _ (hrow row _ (Nat.mod_lt _ hh) _ a ha)

theorem drawSprite_wf {c : Cfg} (hw : 0 < c.displayWidth) (hh : 0 < c.displayHeight) {d : Pixels}
    (hd : Pixels.wf d = true) (vx vy : Byte) (rows : List Byte) :
    Pixels.wf (drawSprite c d vx vy rows).1 = true :=
  drawRows_induction _ _ _ (fun d => Pixels.wf d = true) hw hh
    (fun _ p h _ _ => Pixels.wf_toggle h p) _ _ _ hd

theorem drawSprite_within {c : Cfg} (hw : 0 < c.displayWidth) (hh : 0 < c.displayHeight) {d : Pixels}
    (hd : Pixels.within d c.displayWidth c.displayHeight = true) (vx vy : Byte) (rows : List Byte) :
    Pixels.within (drawSprite c d vx vy rows).1 c.displayWidth c.displayHeight = true :=
  drawRows_induction _ _ _ (fun d => Pixels.within d c.displayWidth c.displayHeight = true) hw hh
    (fun _ _ h hx hy => Pixels.within_toggle h hx hy) _ _ _ hd

end Sys2Proof.Machine
end

