-- ==== Sys2Proof/Laws/Memory.lean ====
section
/-! SUPPORT. The laws of memory: read after write, writes leave other addresses alone, the canonical form is kept. -/

namespace Sys2Proof.Machine

namespace Memory

@[simp] theorem read_nil (a : Nat) : read [] a = unlisted := rfl

/-- A write leaves every other address alone, whatever the form of the list. -/
theorem read_write_other (m : Memory) {a b : Nat} (v : Byte) (h : b ≠ a) :
    read (write m a v) b = read m b := by
  induction m with
  | nil => unfold write; split <;> simp [read, Ne.symm h]
  | cons c r ih =>
    obtain ⟨k, c⟩ := c
    unfold write
    split
    · split
      · rfl
      · simp [read, Ne.symm h]
    · split
      · subst_vars
        split <;> simp [read, Ne.symm h]
      · simp [read, ih]

/-- An address below every listed one reads as unlisted. -/
theorem read_of_below_all {m : Memory} {a : Nat} (h : ∀ c ∈ m, a < c.1) : read m a = unlisted := by
  induction m with
  | nil => rfl
  | cons c r ih =>
    have hc := h c (by simp)
    have hr := ih fun d hd => h d (by simp [hd])
    simp [read, hr, Nat.ne_of_gt hc]

theorem wf_cons {c : Host.Cell} {r : Memory} :
    wf (c :: r) = true ↔ c.2 ≠ unlisted ∧ (∀ d ∈ r, c.1 < d.1) ∧ wf r = true := by
  simp [wf, and_assoc]

theorem read_write_same {m : Memory} (hw : wf m = true) (a : Nat) (v : Byte) :
    read (write m a v) a = v := by
  induction m with
  | nil => unfold write; split <;> simp_all [read]
  | cons c r ih =>
    obtain ⟨k, c⟩ := c
    obtain ⟨hc, hall, hr⟩ := wf_cons.mp hw
    unfold write
    split
    · rename_i hlt
      split
      · rename_i hv
        rw [hv]
        apply read_of_below_all
        intro d hd
        rcases List.mem_cons.mp hd with rfl | hd
        · exact hlt
        · exact Nat.lt_trans hlt (hall d hd)
      · simp [read]
    · split
      · rename_i hak
        subst hak
        split
        · rename_i hv
          rw [hv]
          exact read_of_below_all hall
        · simp [read]
      · rename_i hne
        simp [read, Ne.symm hne, ih hr]

/-- R51: a write changes exactly the one byte. -/
theorem read_write {m : Memory} (hw : wf m = true) (a b : Nat) (v : Byte) :
    read (write m a v) b = if b = a then v else read m b := by
  split
  · subst_vars; exact read_write_same hw _ v
  · exact read_write_other m v ‹_›

theorem mem_write {m : Memory} {a : Nat} {v : Byte} {d : Host.Cell} (h : d ∈ write m a v) :
    d = (a, v) ∨ d ∈ m := by
  induction m with
  | nil => unfold write at h; split at h <;> simp_all
  | cons c r ih =>
    unfold write at h
    split at h
    · split at h
      · exact .inr h
      · rcases List.mem_cons.mp h with h | h
        · exact .inl h
        · exact .inr h
    · split at h
      · split at h
        · exact .inr (List.mem_cons_of_mem _ h)
        · rcases List.mem_cons.mp h with h | h
          · exact .inl h
          · exact .inr (List.mem_cons_of_mem _ h)
      · rcases List.mem_cons.mp h with h | h
        · exact .inr (h ▸ List.mem_cons_self)
        · exact (ih h).imp_right (List.mem_cons_of_mem _)

/-- A write keeps the canonical form. -/
theorem wf_write {m : Memory} (hw : wf m = true) (a : Nat) (v : Byte) : wf (write m a v) = true := by
  induction m with
  | nil => unfold write; split <;> simp_all [wf]
  | cons c r ih =>
    obtain ⟨k, c⟩ := c
    obtain ⟨hc, hall, hr⟩ := wf_cons.mp hw
    unfold write
    split
    · rename_i hlt
      split
      · exact hw
      · rename_i hv
        refine wf_cons.mpr ⟨hv, ?_, hw⟩
        intro d hd
        rcases List.mem_cons.mp hd with rfl | hd
        · exact hlt
        · exact Nat.lt_trans hlt (hall d hd)
    · split
      · rename_i hak
        subst hak
        split
        · exact hr
        · exact wf_cons.mpr ⟨‹_›, hall, hr⟩
      · rename_i hnlt hne
        refine wf_cons.mpr ⟨hc, ?_, ih hr⟩
        intro d hd
        rcases mem_write hd with rfl | hd
        · show k < a
          omega
        · exact hall d hd

theorem below_write {m : Memory} {n a : Nat} (hm : below m n = true) (ha : a < n) (v : Byte) :
    below (write m a v) n = true := by
  simp only [below, List.all_eq_true, decide_eq_true_eq] at hm ⊢
  intro d hd
  rcases mem_write hd with rfl | hd
  · exact ha
  · exact hm d hd

/-! ## Byte strings -/

theorem wf_writeBytes {m : Memory} (hw : wf m = true) (a : Nat) (bs : List Byte) :
    wf (writeBytes m a bs) = true := by
  induction bs generalizing m a with
  | nil => exact hw
  | cons b r ih => exact ih (wf_write hw a b) (a + 1)

theorem below_writeBytes {m : Memory} {n : Nat} (hm : below m n = true) (a : Nat) (bs : List Byte)
    (ha : a + bs.length ≤ n) : below (writeBytes m a bs) n = true := by
  induction bs generalizing m a with
  | nil => exact hm
  | cons b r ih =>
    simp only [List.length_cons] at ha
    exact ih (below_write hm (by omega) b) (a + 1) (by omega)

/-- A string of writes leaves every address outside its bytes alone. -/
theorem read_writeBytes_outside (m : Memory) (a : Nat) (bs : List Byte) {c : Nat}
    (h : c < a ∨ a + bs.length ≤ c) : read (writeBytes m a bs) c = read m c := by
  induction bs generalizing m a with
  | nil => rfl
  | cons b r ih =>
    simp only [List.length_cons] at h
    unfold writeBytes
    rw [ih _ _ (by omega), read_write_other _ _ (by omega)]

/-- Each byte of a string of writes reads back. -/
theorem read_writeBytes_inside {m : Memory} (hw : wf m = true) (a : Nat) (bs : List Byte) {k : Nat}
    (h : k < bs.length) : read (writeBytes m a bs) (a + k) = bs[k] := by
  induction bs generalizing m a k with
  | nil => simp at h
  | cons b r ih =>
    unfold writeBytes
    cases k with
    | zero =>
      rw [read_writeBytes_outside _ _ _ (by omega)]
      simpa using read_write_same hw a b
    | succ k =>
      have := ih (wf_write hw a b) (a + 1) (k := k) (by simpa using h)
      rw [show a + (k + 1) = a + 1 + k by omega, this]
      rfl

@[simp] theorem length_readBytes (m : Memory) (a n : Nat) : (readBytes m a n).length = n := by
  induction n generalizing a with
  | zero => rfl
  | succ n ih => simp [readBytes, ih]

theorem getElem_readBytes (m : Memory) (a n k : Nat) (h : k < (readBytes m a n).length) :
    (readBytes m a n)[k] = read m (a + k) := by
  induction n generalizing a k with
  | zero => simp at h
  | succ n ih =>
    cases k with
    | zero => rfl
    | succ k =>
      simp only [readBytes, List.getElem_cons_succ]
      rw [ih]
      congr 1
      omega

end Memory

end Sys2Proof.Machine
end

