-- ==== Sys2Proof/Laws/Ops.lean ====
section
/-! SUPPORT. One lemma per shared operation: what it can do, said once. -/

namespace Sys2Proof.Machine

/-! ## The range check of the memory instructions (R205) -/

theorem rangeOk_iff (s : State) (len : Nat) :
    s.rangeOk len = true ↔ len = 0 ∨ s.i.toNat + len - 1 < s.cfg.memSize := by
  unfold State.rangeOk
  rw [Bool.or_eq_true, decide_eq_true_iff, decide_eq_true_iff]
  rfl

theorem withRange_ok {len : Nat} {op : Word} {s : State} {effect : State} (h : s.rangeOk len = true) :
    withRange len op s effect = .next effect := by simp [withRange, h]

theorem withRange_bad {len : Nat} {op : Word} {s : State} {effect : State} (h : s.rangeOk len = false) :
    withRange len op s effect = .next (raise (.memOutOfRange (s.highest len)) (some op) s) := by
  simp [withRange, h]

theorem withRange_cases {len : Nat} {op : Word} {s effect t : State}
    (h : withRange len op s effect = .next t) :
    (s.rangeOk len = true ∧ t = effect) ∨
      (s.rangeOk len = false ∧ t = raise (.memOutOfRange (s.highest len)) (some op) s) := by
  cases hr : s.rangeOk len
  · rw [withRange_bad hr] at h
    injection h with h
    exact .inr ⟨rfl, h.symm⟩
  · rw [withRange_ok hr] at h
    injection h with h
    exact .inl ⟨rfl, h.symm⟩

/-! ## The register range of `Fx55` and `Fx65` -/

theorem mem_regsUpTo {x r : Reg} : r ∈ regsUpTo x ↔ r.val ≤ x.val := by
  revert x r
  decide

@[simp] theorem length_regsUpTo (x : Reg) : (regsUpTo x).length = x.val + 1 := by
  revert x
  decide

theorem getElem_regsUpTo (x : Reg) (k : Nat) (h : k < (regsUpTo x).length) :
    ((regsUpTo x)[k]).val = k := by
  have hx : ∀ x : Reg, ∀ k : Fin 16, k.val ≤ x.val → ((regsUpTo x)[k.val]?).map Fin.val = some k.val := by
    decide
  have hk : k ≤ x.val := by rw [length_regsUpTo] at h; omega
  have := hx x ⟨k, by omega⟩ hk
  simpa [List.getElem?_eq_getElem h] using this

@[simp] theorem length_dumpBytes (x : Reg) (s : State) : (dumpBytes x s).length = x.val + 1 := by
  simp [dumpBytes]

/-- Byte `r` of a dump is register `r` (R184). -/
theorem getElem_dumpBytes (x r : Reg) (s : State) (h : r.val < (dumpBytes x s).length) :
    (dumpBytes x s)[r.val] = s.readV r := by
  simp only [dumpBytes, List.getElem_map]
  congr 1
  exact Fin.ext (getElem_regsUpTo x r.val (by simpa [dumpBytes] using h))

theorem loadLoop_get (m : Memory) (base : Nat) (rs : List Reg) (v : Vector Byte 16) (r : Reg) :
    (loadLoop m base rs v)[r.val] = if r ∈ rs then Memory.read m (base + r.val) else v[r.val] := by
  induction rs generalizing v with
  | nil => simp [loadLoop]
  | cons q qs ih =>
    rw [loadLoop, ih]
    by_cases hq : r = q
    · subst hq; simp
    · have hne : ¬ q.val = r.val := fun e => hq (Fin.ext e.symm)
      simp [hq, hne]

/-- R185: registers up to Vx come from memory, the others stay. -/
theorem readV_loadFrom (s : State) (x r : Reg) :
    (s.loadFrom x).readV r = if r.val ≤ x.val then s.byteAt (s.i.toNat + r.val) else s.readV r := by
  have := loadLoop_get s.mem s.base (regsUpTo x) s.v r
  simpa [State.readV, State.loadFrom, State.byteAt, State.base, mem_regsUpTo] using this

/-! ## The stack -/

theorem stackAt_push_same (s : State) (w : Word) (h : s.sp.toNat < 15) :
    (s.push w).stackAt (s.sp.toNat + 1) = some w := by
  have : s.sp.toNat + 1 < 16 := by omega
  simp [State.stackAt, State.push, this]

theorem stackAt_push_other (s : State) (w : Word) {k : Nat} (h : k ≠ s.sp.toNat + 1) :
    (s.push w).stackAt k = s.stackAt k := by
  simp only [State.stackAt, State.push]
  rw [Vector.getElem?_setIfInBounds_ne (Ne.symm h)]

theorem stackAt_some (s : State) {k : Nat} (h : k < 16) : s.stackAt k = some s.stack[k] := by
  simp [State.stackAt, h]

/-! ## Keys -/

theorem keyNamed_of_lt {b : Byte} (h : b.toNat < 16) : keyNamed b = some ⟨b.toNat, h⟩ := by
  simp [keyNamed, h]

theorem keyNamed_of_ge {b : Byte} (h : 16 ≤ b.toNat) : keyNamed b = none := by
  simp [keyNamed, Nat.not_lt.mpr h]

/-- The only two things a key skip does. -/
theorem keySkip_cases (wanted : Bool) (x : Reg) (op : Word) (s : State) :
    (∃ k : Key, k.val = (s.readV x).toNat ∧
        keySkip wanted x op s = .next (s.skipIf (s.isDown k == wanted))) ∨
      (16 ≤ (s.readV x).toNat ∧
        keySkip wanted x op s = .next (raise (.keyOutOfRange (s.readV x)) (some op) s)) := by
  unfold keySkip
  by_cases h : (s.readV x).toNat < 16
  · exact .inl ⟨⟨_, h⟩, rfl, by rw [keyNamed_of_lt h]⟩
  · exact .inr ⟨by omega, by rw [keyNamed_of_ge (by omega)]⟩

theorem allKeys_get (k : Key) : allKeys[k.val]? = some k := by
  revert k
  decide

/-- R162: the key found is scanned, down, and the lowest such key. -/
theorem firstKeyDown_some {s : State} {k : Key} (h : s.firstKeyDown = some k) :
    k.val < s.cfg.keyScan.count ∧ s.isDown k = true ∧
      ∀ j : Key, j.val < k.val → s.isDown j = false := by
  unfold State.firstKeyDown at h
  obtain ⟨hp, as, bs, hsplit, hbefore⟩ := List.find?_eq_some_iff_append.mp h
  simp only [Bool.and_eq_true, decide_eq_true_eq] at hp
  refine ⟨hp.1, hp.2, ?_⟩
  intro j hj
  have hk : as.length = k.val := by
    have hnd : allKeys.Nodup := by decide
    have h1 : allKeys[as.length]? = some k := by rw [hsplit]; simp
    have h2 := allKeys_get k
    have hl : as.length < allKeys.length := by rw [hsplit]; simp
    exact (List.getElem?_inj hl hnd).mp (h1.trans h2.symm)
  have hmem : j ∈ as := by
    have h1 := allKeys_get j
    rw [hsplit, List.getElem?_append_left (by omega)] at h1
    exact List.mem_of_getElem? h1
  have := hbefore j hmem
  simp only [Bool.not_eq_true', Bool.and_eq_false_iff, decide_eq_false_iff_not] at this
  rcases this with h | h
  · omega
  · exact h

theorem firstKeyDown_none {s : State} (h : s.firstKeyDown = none) (k : Key)
    (hk : k.val < s.cfg.keyScan.count) : s.isDown k = false := by
  unfold State.firstKeyDown at h
  have := List.find?_eq_none.mp h k (List.mem_of_getElem? (allKeys_get k))
  simpa [hk] using this

/-! ## Timers -/

theorem timerUnits_nonneg (f : AccFormat) {ms : Rat} (h : 0 ≤ ms) : 0 ≤ timerUnits f ms := by
  cases f
  · show 0 ≤ ms * 60 / 1000
    positivity
  · exact le_max_left _ _

/-- R214, R215: a decay never goes below 0. -/
theorem decay_nonneg (f : AccFormat) {acc : Rat} (u : Rat) (h : 0 ≤ acc) : 0 ≤ decay f acc u := by
  cases f
  · exact le_max_left _ _
  · exact le_min h (le_max_left _ _)

/-- R29: decay only lowers an accumulator. -/
theorem decay_le (f : AccFormat) {acc u : Rat} (h : 0 ≤ acc) (hu : 0 ≤ u) : decay f acc u ≤ acc := by
  cases f
  · exact max_le h (by linarith)
  · exact min_le_left _ _

/-- The 8-bit timer value is the floor itself, for an accumulator in 0..255. -/
theorem delayValue_toNat {acc : Rat} (h0 : 0 ≤ acc) (h1 : acc ≤ 255) :
    ((delayValue acc).toNat : Int) = acc.floor := by
  have hn : 0 ≤ acc.floor := Rat.le_floor_iff.mpr (by simpa using h0)
  have hu : acc.floor ≤ 255 := by
    have : ((acc.floor : Int) : Rat) ≤ 255 := le_trans (Rat.floor_le _) h1
    exact_mod_cast this
  unfold delayValue
  rw [BitVec.toNat_ofInt]
  omega

/-- The 8-bit timer value is the ceiling itself, for an accumulator in 0..255. -/
theorem soundValue_toNat {acc : Rat} (h0 : 0 ≤ acc) (h1 : acc ≤ 255) :
    ((soundValue acc).toNat : Int) = acc.ceil := by
  have hn : 0 ≤ acc.ceil := by
    have : (0 : Rat) ≤ ((acc.ceil : Int) : Rat) := le_trans h0 Rat.le_ceil
    exact_mod_cast this
  have hu : acc.ceil ≤ 255 := Rat.ceil_le_iff.mpr (by simpa using h1)
  unfold soundValue
  rw [BitVec.toNat_ofInt]
  omega

theorem beeps_iff (before after : Byte) : beeps before after = true ↔ before ≠ 0 ∧ after = 0 := by
  simp [beeps]

end Sys2Proof.Machine
end

