-- ==== Sys2Proof/Laws/PerInstr.lean ====
section
/-! SUPPORT. Statements about every instruction, one lemma per constructor. -/

namespace Sys2Proof.Laws.RowFit

/-- R75: the word of a well-formed instruction lies in the instruction's row of the opcode map, and only `unknown`
stands in the default row. -/
def Statement (i : Instr) : Prop :=
  i.wf = true → i.row.covers (encode i) = true ∧ (i.row ∈ instructionRows ∨ i = .unknown (encode i))

theorem covers_encodeNNN {c : Nat} (hc : c < 16) (nnn : Addr12) {v : Word} (hv : v.toNat = c * 4096) :
    (OpcodeRow.mk 0xF000 v).covers (encodeNNN c nnn) = true := by
  have := nnn.isLt
  rw [covers_F000, encodeNNN_toNat hc, hv]
  omega

theorem covers_encodeXKK {c : Nat} (hc : c < 16) (x : Reg) (kk : Byte) {v : Word} (hv : v.toNat = c * 4096) :
    (OpcodeRow.mk 0xF000 v).covers (encodeXKK c x kk) = true := by
  have := x.isLt
  have := kk.isLt
  rw [covers_F000, encodeXKK_toNat hc, hv]
  omega

theorem covers_encodeX {c : Nat} (hc : c < 16) (x : Reg) (kk : Byte) {v : Word}
    (hv : v.toNat = c * 4096 + kk.toNat) : (OpcodeRow.mk 0xF0FF v).covers (encodeXKK c x kk) = true := by
  have := x.isLt
  have := kk.isLt
  rw [covers_F0FF, encodeXKK_toNat hc, hv]
  omega

theorem covers_encodeXY {c : Nat} (hc : c < 16) (x y : Reg) (n : Fin 16) {v : Word}
    (hv : v.toNat = c * 4096 + n.val) : (OpcodeRow.mk 0xF00F v).covers (encodeXYN c x y n) = true := by
  have := x.isLt
  have := y.isLt
  have := n.isLt
  rw [covers_F00F, encodeXYN_toNat hc, hv]
  omega

theorem covers_encodeXYN {c : Nat} (hc : c < 16) (x y : Reg) (n : Fin 16) {v : Word} (hv : v.toNat = c * 4096) :
    (OpcodeRow.mk 0xF000 v).covers (encodeXYN c x y n) = true := by
  have := x.isLt
  have := y.isLt
  have := n.isLt
  rw [covers_F000, encodeXYN_toNat hc, hv]
  omega

theorem cls : Statement .cls := fun _ => ⟨by decide, .inl (by decide)⟩
theorem ret : Statement .ret := fun _ => ⟨by decide, .inl (by decide)⟩
theorem jp (nnn : Addr12) : Statement (.jp nnn) :=
  fun _ => ⟨covers_encodeNNN (by decide) nnn rfl, .inl (by simp only [Instr.row]; decide)⟩
theorem call (nnn : Addr12) : Statement (.call nnn) :=
  fun _ => ⟨covers_encodeNNN (by decide) nnn rfl, .inl (by simp only [Instr.row]; decide)⟩
theorem seImm (x : Reg) (kk : Byte) : Statement (.seImm x kk) :=
  fun _ => ⟨covers_encodeXKK (by decide) x kk rfl, .inl (by simp only [Instr.row]; decide)⟩
theorem sneImm (x : Reg) (kk : Byte) : Statement (.sneImm x kk) :=
  fun _ => ⟨covers_encodeXKK (by decide) x kk rfl, .inl (by simp only [Instr.row]; decide)⟩
theorem seReg (x y : Reg) : Statement (.seReg x y) :=
  fun _ => ⟨covers_encodeXY (by decide) x y _ rfl, .inl (by simp only [Instr.row]; decide)⟩
theorem ldImm (x : Reg) (kk : Byte) : Statement (.ldImm x kk) :=
  fun _ => ⟨covers_encodeXKK (by decide) x kk rfl, .inl (by simp only [Instr.row]; decide)⟩
theorem addImm (x : Reg) (kk : Byte) : Statement (.addImm x kk) :=
  fun _ => ⟨covers_encodeXKK (by decide) x kk rfl, .inl (by simp only [Instr.row]; decide)⟩
theorem ldReg (x y : Reg) : Statement (.ldReg x y) :=
  fun _ => ⟨covers_encodeXY (by decide) x y _ rfl, .inl (by simp only [Instr.row]; decide)⟩
theorem orReg (x y : Reg) : Statement (.orReg x y) :=
  fun _ => ⟨covers_encodeXY (by decide) x y _ rfl, .inl (by simp only [Instr.row]; decide)⟩
theorem andReg (x y : Reg) : Statement (.andReg x y) :=
  fun _ => ⟨covers_encodeXY (by decide) x y _ rfl, .inl (by simp only [Instr.row]; decide)⟩
theorem xorReg (x y : Reg) : Statement (.xorReg x y) :=
  fun _ => ⟨covers_encodeXY (by decide) x y _ rfl, .inl (by simp only [Instr.row]; decide)⟩
theorem addReg (x y : Reg) : Statement (.addReg x y) :=
  fun _ => ⟨covers_encodeXY (by decide) x y _ rfl, .inl (by simp only [Instr.row]; decide)⟩
theorem subReg (x y : Reg) : Statement (.subReg x y) :=
  fun _ => ⟨covers_encodeXY (by decide) x y _ rfl, .inl (by simp only [Instr.row]; decide)⟩
theorem shr (x y : Reg) : Statement (.shr x y) :=
  fun _ => ⟨covers_encodeXY (by decide) x y _ rfl, .inl (by simp only [Instr.row]; decide)⟩
theorem subn (x y : Reg) : Statement (.subn x y) :=
  fun _ => ⟨covers_encodeXY (by decide) x y _ rfl, .inl (by simp only [Instr.row]; decide)⟩
theorem shl (x y : Reg) : Statement (.shl x y) :=
  fun _ => ⟨covers_encodeXY (by decide) x y _ rfl, .inl (by simp only [Instr.row]; decide)⟩
theorem sneReg (x y : Reg) : Statement (.sneReg x y) :=
  fun _ => ⟨covers_encodeXY (by decide) x y _ rfl, .inl (by simp only [Instr.row]; decide)⟩
theorem ldI (nnn : Addr12) : Statement (.ldI nnn) :=
  fun _ => ⟨covers_encodeNNN (by decide) nnn rfl, .inl (by simp only [Instr.row]; decide)⟩
theorem jpV0 (nnn : Addr12) : Statement (.jpV0 nnn) :=
  fun _ => ⟨covers_encodeNNN (by decide) nnn rfl, .inl (by simp only [Instr.row]; decide)⟩
theorem rnd (x : Reg) (kk : Byte) : Statement (.rnd x kk) :=
  fun _ => ⟨covers_encodeXKK (by decide) x kk rfl, .inl (by simp only [Instr.row]; decide)⟩
theorem drw (x y : Reg) (n : Fin 16) : Statement (.drw x y n) :=
  fun _ => ⟨covers_encodeXYN (by decide) x y n rfl, .inl (by simp only [Instr.row]; decide)⟩
theorem skp (x : Reg) : Statement (.skp x) :=
  fun _ => ⟨covers_encodeX (by decide) x _ rfl, .inl (by simp only [Instr.row]; decide)⟩
theorem sknp (x : Reg) : Statement (.sknp x) :=
  fun _ => ⟨covers_encodeX (by decide) x _ rfl, .inl (by simp only [Instr.row]; decide)⟩
theorem ldVxDt (x : Reg) : Statement (.ldVxDt x) :=
  fun _ => ⟨covers_encodeX (by decide) x _ rfl, .inl (by simp only [Instr.row]; decide)⟩
theorem ldVxK (x : Reg) : Statement (.ldVxK x) :=
  fun _ => ⟨covers_encodeX (by decide) x _ rfl, .inl (by simp only [Instr.row]; decide)⟩
theorem ldDtVx (x : Reg) : Statement (.ldDtVx x) :=
  fun _ => ⟨covers_encodeX (by decide) x _ rfl, .inl (by simp only [Instr.row]; decide)⟩
theorem ldStVx (x : Reg) : Statement (.ldStVx x) :=
  fun _ => ⟨covers_encodeX (by decide) x _ rfl, .inl (by simp only [Instr.row]; decide)⟩
theorem addI (x : Reg) : Statement (.addI x) :=
  fun _ => ⟨covers_encodeX (by decide) x _ rfl, .inl (by simp only [Instr.row]; decide)⟩
theorem ldF (x : Reg) : Statement (.ldF x) :=
  fun _ => ⟨covers_encodeX (by decide) x _ rfl, .inl (by simp only [Instr.row]; decide)⟩
theorem ldB (x : Reg) : Statement (.ldB x) :=
  fun _ => ⟨covers_encodeX (by decide) x _ rfl, .inl (by simp only [Instr.row]; decide)⟩
theorem storeRegs (x : Reg) : Statement (.storeRegs x) :=
  fun _ => ⟨covers_encodeX (by decide) x _ rfl, .inl (by simp only [Instr.row]; decide)⟩
theorem loadRegs (x : Reg) : Statement (.loadRegs x) :=
  fun _ => ⟨covers_encodeX (by decide) x _ rfl, .inl (by simp only [Instr.row]; decide)⟩
theorem unknown (op : Word) : Statement (.unknown op) :=
  fun _ => ⟨by simp [Instr.row, OpcodeRow.covers], .inr rfl⟩

end Sys2Proof.Laws.RowFit
end

