-- ==== Sys2Proof/Tests/Slice0.lean ====
section
/-! SUPPORT. The model's own tests: well-formedness, written-out words, vectors of 95_test_vectors.md, and for every statement
with hypotheses a concrete state and operands that meet them. -/

namespace Sys2Proof.Tests

open Sys2Proof Sys2Proof.Machine

/-! ## Helpers -/

/-- The opcode at 0x200, PC there, the engine running, `delta_ms` 0: the start state of the spec's vectors. -/
def prog (op : Nat) : State := State.reset.withFetchWord 16 op

/-- Registers set. -/
def regs (l : List (Reg × Byte)) (s : State) : State := l.foldl (fun t p => t.writeV p.1 p.2) s

/-- Bytes stored at an address. -/
def bytes (a : Nat) (bs : List Byte) (s : State) : State := s.setMem (Memory.writeBytes s.mem a bs)

/-- The keys that are down. -/
def keysDown (ks : List Key) (s : State) : State :=
  { s with keys := ks.foldl (fun v k => v.set k.val true) s.keys }

/-- The elapsed time of the step. -/
def elapsed (ms : Rat) (s : State) : State := { s with elapsed := .finite ms }

/-- One step answers a next state with the property. -/
def after (s : State) (p : State → Bool) : Bool :=
  match step s with
  | .next t => p t
  | .fault _ => false
  | .refused _ => false

/-- One step takes the fault with the record. -/
def faults (s : State) (k : FaultKind) (op : Option Word) (pc : Word) : Bool :=
  after s fun t => t == { s with status := .faulted ⟨k, op, pc⟩ }

/-! ## Well-formedness: the one check -/

theorem test_wf_refuses_unknown_of_a_jump : Instr.wf (.unknown 0x1234) = false := by decide
theorem test_wf_refuses_unknown_of_cls : Instr.wf (.unknown 0x00E0) = false := by decide
theorem test_wf_admits_unknown_0nnn : Instr.wf (.unknown 0x0123) = true := by decide

/-! ## Decoding: every constructor from a word written out from R75's pattern -/

theorem test_decode_00E0 : decode 0b0000000011100000 = .cls := by decide
theorem test_decode_00EE : decode 0b0000000011101110 = .ret := by decide
theorem test_decode_1nnn : decode 0b0001101010111100 = .jp 0xABC := by decide
theorem test_decode_2nnn : decode 0b0010001000001010 = .call 0x20A := by decide
theorem test_decode_3xkk : decode 0b0011101001000010 = .seImm 10 0x42 := by decide
theorem test_decode_4xkk : decode 0b0100101001000010 = .sneImm 10 0x42 := by decide
theorem test_decode_5xy0 : decode 0b0101000100100000 = .seReg 1 2 := by decide
theorem test_decode_6xkk : decode 0b0110000110101011 = .ldImm 1 0xAB := by decide
theorem test_decode_7xkk : decode 0b0111000111111111 = .addImm 1 0xFF := by decide
theorem test_decode_8xy0 : decode 0b1000111011110000 = .ldReg 14 15 := by decide
theorem test_decode_8xy1 : decode 0b1000000000010001 = .orReg 0 1 := by decide
theorem test_decode_8xy2 : decode 0b1000000000010010 = .andReg 0 1 := by decide
theorem test_decode_8xy3 : decode 0b1000000000010011 = .xorReg 0 1 := by decide
theorem test_decode_8xy4 : decode 0b1000000000010100 = .addReg 0 1 := by decide
theorem test_decode_8xy5 : decode 0b1000000000010101 = .subReg 0 1 := by decide
theorem test_decode_8xy6 : decode 0b1000101010110110 = .shr 10 11 := by decide
theorem test_decode_8xy7 : decode 0b1000000000010111 = .subn 0 1 := by decide
theorem test_decode_8xyE : decode 0b1000000000011110 = .shl 0 1 := by decide
theorem test_decode_9xy0 : decode 0b1001000100100000 = .sneReg 1 2 := by decide
theorem test_decode_Annn : decode 0b1010000100100011 = .ldI 0x123 := by decide
theorem test_decode_Bnnn : decode 0b1011111100000000 = .jpV0 0xF00 := by decide
theorem test_decode_Cxkk : decode 0b1100001100001111 = .rnd 3 0x0F := by decide
theorem test_decode_Dxyn : decode 0b1101000100101111 = .drw 1 2 15 := by decide
theorem test_decode_Ex9E : decode 0b1110000110011110 = .skp 1 := by decide
theorem test_decode_ExA1 : decode 0b1110000110100001 = .sknp 1 := by decide
theorem test_decode_Fx07 : decode 0b1111001100000111 = .ldVxDt 3 := by decide
theorem test_decode_Fx0A : decode 0b1111111100001010 = .ldVxK 15 := by decide
theorem test_decode_Fx15 : decode 0b1111001100010101 = .ldDtVx 3 := by decide
theorem test_decode_Fx18 : decode 0b1111000000011000 = .ldStVx 0 := by decide
theorem test_decode_Fx1E : decode 0b1111000100011110 = .addI 1 := by decide
theorem test_decode_Fx29 : decode 0b1111000100101001 = .ldF 1 := by decide
theorem test_decode_Fx33 : decode 0b1111000100110011 = .ldB 1 := by decide
theorem test_decode_Fx55 : decode 0b1111001001010101 = .storeRegs 2 := by decide
theorem test_decode_Fx65 : decode 0b1111001001100101 = .loadRegs 2 := by decide
/-- DE6 to DE14. -/
theorem test_decode_unknown : [0x0123, 0x00E1, 0x5121, 0x8128, 0x812F, 0x9121, 0xE19F, 0xF100, 0xF166].all
    (fun w : Word => decode w == .unknown w) = true := by decide
theorem test_decodeTableWord : decodeTableWord 16 0x8AB6 = some (.shr 10 11) := by decide
theorem test_decodeBytes_short : decodeBytes [0x12] = .error .truncated := by decide

/-! ## Fetch and control flow -/

/-- FE1, CF1. -/
theorem test_fetch_bigEndian : after (prog 0x1234) (fun t => t.pc == 0x234) = true := by decide
/-- FE2, FE3. -/
theorem test_fetch_misaligned : faults ((prog 0).setPc 0xFFF) .pcMisaligned none 0xFFF = true := by decide
/-- FE5, FE6. -/
theorem test_fetch_outOfRange : faults ((prog 0).setPc 0x1000) .fetchOutOfRange none 0x1000 = true := by decide
/-- FE4. -/
theorem test_fetch_last : faults ((prog 0).setPc 0xFFE) .illegalOpcode (some 0) 0xFFE = true := by decide
/-- FE7. -/
theorem test_unloaded_refused : (match step State.reset with
    | .refused r => r == .notLoaded
    | .next _ => false
    | .fault _ => false) = true := by decide
/-- CF5. -/
theorem test_call_deepest : after (({ prog 0 with sp := 14, pc := 0x450 }).setMem [(0x450, 0x23)])
    (fun t => t.sp == 15 && t.stackAt 15 == some 0x450 && t.pc == 0x300) = true := by decide
/-- CF6. -/
theorem test_call_overflow : faults { prog 0x2300 with sp := 15 } .stackOverflow (some 0x2300) 0x200 = true := by
  decide
/-- CF8. -/
theorem test_ret : after { prog 0x00EE with sp := 3, stack := (prog 0).stack.set 3 0x4A0 }
    (fun t => t.pc == 0x4A2 && t.sp == 2 && t.stackAt 3 == some 0x4A0) = true := by decide
/-- CF9. -/
theorem test_ret_underflow : faults (prog 0x00EE) .stackUnderflow (some 0x00EE) 0x200 = true := by decide
/-- CF11. -/
theorem test_jpV0 : after (regs [(0, 0xFF)] (prog 0xBFFF)) (fun t => t.pc == 0x10FE) = true := by decide
/-- DE16. -/
theorem test_unknown_continue :
    after { prog 0 with cfg := { Config.defaultCfg with unknownPolicy := .continue }, dt := 5, dta := 5,
                        elapsed := .finite (100 / 3) }
      (fun t => t.log == [⟨0, 0x200⟩] && t.pc == 0x200 && t.dt == 3 && t.dta == 3) = true := by decide +kernel

/-! ## Skips -/

/-- SK1, SK2. -/
theorem test_seImm : (after (regs [(10, 0x42)] (prog 0x3A42)) (fun t => t.pc == 0x204) &&
    after (regs [(10, 0x43)] (prog 0x3A42)) (fun t => t.pc == 0x202)) = true := by decide
/-- SK3, SK4. -/
theorem test_sneImm : (after (regs [(10, 0x42)] (prog 0x4A42)) (fun t => t.pc == 0x202) &&
    after (regs [(10, 0x43)] (prog 0x4A42)) (fun t => t.pc == 0x204)) = true := by decide
/-- SK5, SK6. -/
theorem test_seReg : (after (regs [(1, 7), (2, 7)] (prog 0x5120)) (fun t => t.pc == 0x204) &&
    after (regs [(1, 7), (2, 8)] (prog 0x5120)) (fun t => t.pc == 0x202)) = true := by decide
/-- SK8, SK9. -/
theorem test_sneReg : (after (regs [(1, 7), (2, 7)] (prog 0x9120)) (fun t => t.pc == 0x202) &&
    after (regs [(1, 7), (2, 8)] (prog 0x9120)) (fun t => t.pc == 0x204)) = true := by decide

/-! ## Arithmetic and logic -/

/-- AL1. -/
theorem test_ldImm : after (prog 0x61AB) (fun t => t.readV 1 == 0xAB && t.pc == 0x202) = true := by decide
/-- AL3. -/
theorem test_addImm_wraps : after (regs [(1, 2), (15, 1)] (prog 0x71FF))
    (fun t => t.readV 1 == 1 && t.readV 15 == 1) = true := by decide
/-- AL6. -/
theorem test_ldReg : after (regs [(0, 1), (1, 0x77), (15, 1)] (prog 0x8010))
    (fun t => t.readV 0 == 0x77 && t.readV 15 == 1) = true := by decide
/-- AL7. -/
theorem test_orReg : after (regs [(0, 0xF0), (1, 0x0F), (15, 1)] (prog 0x8011))
    (fun t => t.readV 0 == 0xFF && t.readV 15 == 1) = true := by decide
/-- AL8. -/
theorem test_andReg : after (regs [(0, 0xF0), (1, 0x3C), (15, 1)] (prog 0x8012))
    (fun t => t.readV 0 == 0x30 && t.readV 15 == 1) = true := by decide
/-- AL9. -/
theorem test_xorReg : after (regs [(0, 0xF0), (1, 0x3C), (15, 1)] (prog 0x8013))
    (fun t => t.readV 0 == 0xCC && t.readV 15 == 1) = true := by decide
/-- S3. -/
theorem test_addReg_carry : after (regs [(0, 0xFF), (1, 0xFF)] (prog 0x8014))
    (fun t => t.readV 0 == 0xFE && t.readV 15 == 1) = true := by decide
/-- AL16, AL17. -/
theorem test_addReg_vF : (after (regs [(15, 0xF0), (1, 0x20)] (prog 0x8F14)) (fun t => t.readV 15 == 1) &&
    after (regs [(1, 5), (15, 7)] (prog 0x81F4)) (fun t => t.readV 1 == 0x0C && t.readV 15 == 0)) = true := by
  decide
/-- S5. -/
theorem test_subReg_borrow : after (regs [(0, 0x0F), (1, 0xFF)] (prog 0x8015))
    (fun t => t.readV 0 == 0x10 && t.readV 15 == 0) = true := by decide
/-- AL21. -/
theorem test_subReg_equal : after (regs [(0, 0x33), (1, 0x33), (15, 1)] (prog 0x8015))
    (fun t => t.readV 0 == 0 && t.readV 15 == 0) = true := by decide
/-- AL30. -/
theorem test_shr_ignores_y : after (regs [(0, 5), (1, 0xAA)] (prog 0x8016))
    (fun t => t.readV 0 == 2 && t.readV 15 == 1 && t.readV 1 == 0xAA) = true := by decide
/-- AL25. -/
theorem test_subn : after (regs [(0, 1), (1, 0x0F)] (prog 0x8017))
    (fun t => t.readV 0 == 0x0E && t.readV 15 == 1) = true := by decide
/-- AL34, AL37. -/
theorem test_shl : (after (regs [(0, 0x81)] (prog 0x800E)) (fun t => t.readV 0 == 2 && t.readV 15 == 1) &&
    after (regs [(15, 0xC0)] (prog 0x8F0E)) (fun t => t.readV 15 == 1)) = true := by decide
/-- AL39: every bit is forced to 0, whatever the random byte. -/
theorem test_rnd_masked (s : State) : ∃ t, exec (.rnd 3 0x00) s = .next t ∧ t.readV 3 = 0 :=
  ⟨_, rfl, by simp⟩

/-! ## Display -/

/-- DS1. -/
theorem test_drw : after ((bytes 0x300 [0xD0] (regs [(1, 5), (2, 6)] (prog 0xD121))).setI 0x300)
    (fun t => t.pix == [⟨5, 6⟩, ⟨6, 6⟩, ⟨8, 6⟩] && t.readV 15 == 0 && t.i == 0x300) = true := by decide
/-- DS3. -/
theorem test_drw_collision :
    after { ((bytes 0x300 [0xD0] (regs [(1, 5), (2, 6)] (prog 0xD121))).setI 0x300) with pix := [⟨6, 6⟩] }
    (fun t => t.pix == [⟨5, 6⟩, ⟨8, 6⟩] && t.readV 15 == 1) = true := by decide
/-- DS15. -/
theorem test_cls : after { regs [(15, 1)] (prog 0x00E0) with pix := [⟨1, 1⟩, ⟨63, 31⟩] }
    (fun t => t.pix == [] && t.readV 15 == 1 && t.pc == 0x202) = true := by decide

/-! ## Keypad -/

/-- KP1, KP5. -/
theorem test_skp : (after (keysDown [4] (regs [(1, 4)] (prog 0xE19E))) (fun t => t.pc == 0x204) &&
    after (keysDown [15] (regs [(1, 15)] (prog 0xE19E))) (fun t => t.pc == 0x204)) = true := by decide
/-- KP6. -/
theorem test_skp_outOfRange : faults (regs [(1, 16)] (prog 0xE19E)) (.keyOutOfRange 16) (some 0xE19E) 0x200 = true := by
  decide
/-- KP3, KP4. -/
theorem test_sknp : (after (keysDown [4] (regs [(1, 4)] (prog 0xE1A1))) (fun t => t.pc == 0x202) &&
    after (keysDown [5] (regs [(1, 4)] (prog 0xE1A1))) (fun t => t.pc == 0x204)) = true := by decide
/-- KP9. -/
theorem test_ldVxK : after (keysDown [2, 9, 15] (regs [(5, 0x99)] (prog 0xF50A)))
    (fun t => t.readV 5 == 2 && t.pc == 0x202) = true := by decide
/-- KP12. -/
theorem test_ldVxK_first15 : after { keysDown [15] (regs [(5, 0x99)] (prog 0xF50A)) with
      cfg := { Config.defaultCfg with keyScan := .first15 } }
    (fun t => t.readV 5 == 0x99 && t.pc == 0x200) = true := by decide

/-! ## Timers -/

/-- TM3. -/
theorem test_ldVxDt : after (elapsed 50 { prog 0xF307 with dt := 7, dta := 7 })
    (fun t => t.readV 3 == 7 && t.dt == 4 && t.dta == 4) = true := by decide +kernel
/-- TM4. -/
theorem test_ldDtVx : after (elapsed 50 (regs [(3, 10)] (prog 0xF315)))
    (fun t => t.dt == 7 && t.dta == 7) = true := by decide +kernel
/-- TM7. -/
theorem test_ldStVx_ceiling : after (elapsed 25 (regs [(0, 3)] (prog 0xF018)))
    (fun t => t.st == 2 && t.sta == 3 / 2 && !t.beepPending) = true := by decide +kernel
/-- TM8, TM9. -/
theorem test_ldStVx_beep : (after (elapsed 50 (regs [(0, 1)] (prog 0xF018))) (fun t => t.st == 0 && t.beepPending) &&
    after { prog 0xF018 with st := 4, sta := 4 } (fun t => t.st == 0 && !t.beepPending)) = true := by decide +kernel

/-! ## Address register and memory -/

/-- IM2. -/
theorem test_ldI : after (prog 0xAFFF) (fun t => t.i == 0xFFF && t.pc == 0x202) = true := by decide
/-- IM4. -/
theorem test_addI_wraps : after ((regs [(1, 0xFF), (15, 1)] (prog 0xF11E)).setI 0xFFFF)
    (fun t => t.i == 0x00FE && t.readV 15 == 1) = true := by decide
/-- IM7. -/
theorem test_ldF : after (regs [(1, 0xFF)] (prog 0xF129)) (fun t => t.i == 0x4FB) = true := by decide
/-- IM8. -/
theorem test_ldB : after ((regs [(1, 123)] (prog 0xF133)).setI 0x300)
    (fun t => Memory.readBytes t.mem 0x300 3 == [1, 2, 3] && t.i == 0x300) = true := by decide
/-- IM12. -/
theorem test_ldB_outOfRange : faults ((prog 0xF133).setI 0xFFFF) (.memOutOfRange 0x10001) (some 0xF133) 0x200 = true := by
  decide
/-- IM13. -/
theorem test_storeRegs : after ((regs [(0, 0xAA), (1, 0xBB), (2, 0xCC), (3, 0xDD)] (prog 0xF255)).setI 0x300)
    (fun t => Memory.readBytes t.mem 0x300 4 == [0xAA, 0xBB, 0xCC, 0] && t.i == 0x303) = true := by decide
/-- IM16. -/
theorem test_storeRegs_outOfRange :
    faults ((prog 0xFF55).setI 0xFF1) (.memOutOfRange 0x1000) (some 0xFF55) 0x200 = true := by decide
/-- IM19. -/
theorem test_loadRegs : after ((bytes 0x300 [1, 2, 3, 4] (regs [(0, 9), (3, 9)] (prog 0xF265))).setI 0x300)
    (fun t => t.readV 0 == 1 && t.readV 1 == 2 && t.readV 2 == 3 && t.readV 3 == 9 && t.i == 0x303) = true := by
  decide

/-! ## `load_rom` -/

/-- LR1. -/
theorem test_loadRom_empty : loadRom [] State.reset = .error (.romTooShort 0) := by decide
/-- LR6's bound: the room of the default configuration. -/
theorem test_romRoom : romRoom Config.defaultCfg = 3584 := by decide
/-- LR7. -/
theorem test_loadRom_again :
    (match loadRom [0x12, 0x00] { regs [(3, 7)] (prog 0) with i := 0x300, sp := 2, dt := 9, mem := [(0x300, 0x55)] } with
      | .ok t => t.readV 3 == 7 && t.i == 0x300 && t.sp == 2 && t.dt == 9 && t.byteAt 0x300 == 0 &&
          t.byteAt 0x200 == 0x12 && t.byteAt 79 == 0x80 && t.pc == 0x200
      | .error _ => false) = true := by decide +kernel
/-- A program comes to run from reset by the host's turn: load, then the first instruction. -/
theorem test_load_then_step :
    after { State.reset with hostTurns := [⟨some [0x61, 0xAB], false, none, State.reset.keys, .finite 0⟩] }
      (fun t => t.readV 1 == 0xAB && t.pc == 0x202 && t.status == .running) = true := by decide +kernel

/-! ## Witnesses: for every statement with hypotheses, a concrete state and operands that meet them -/

/-- The same start state under `UNKNOWN_POLICY = Continue`. -/
def progContinue (op : Nat) : State := { prog op with cfg := { Config.defaultCfg with unknownPolicy := .continue } }

theorem defaultCfg_valid : Config.defaultCfg.Valid :=
  ⟨by decide, by decide, by decide, by decide, by decide, by decide, by decide, by decide +kernel, by decide⟩

/-- A running state that meets the invariant: a self-jump at 0x200. -/
theorem prog_inv : (prog 0x1200).Inv :=
  ⟨defaultCfg_valid, by decide, by decide, by decide +kernel, by decide +kernel, by decide, by decide +kernel,
    by decide +kernel, by decide, by decide, by decide, by decide⟩

/-- A state that meets the invariant at its bounds: SP = 15, both timers 255. -/
theorem prog_inv_bounds :
    ({ prog 0x2300 with sp := 15, dt := 255, dta := 255, st := 255, sta := 255 } : State).Inv :=
  ⟨defaultCfg_valid, by decide, by decide +kernel, by decide +kernel, by decide +kernel, by decide +kernel,
    by decide +kernel, by decide +kernel, by decide, by decide, by decide, by decide⟩

/-- A call of `step` that R100 accepts. -/
theorem prog_ready : (prog 0x1200).Ready 0 := ⟨by decide, by decide, by decide +kernel, by decide⟩

theorem witness_DecodeOfEncodeIsTheInstruction :
    Instr.wf (.drw 15 0 15) = true ∧ Instr.wf (.unknown 0xF166) = true := by decide

theorem witness_MaskAndMatchSelectTheInstruction :
    (⟨0xF0FF, 0xE0A1⟩ ∈ instructionRows ∧ (OpcodeRow.mk 0xF0FF 0xE0A1).covers 0xEFA1 = true) ∧
    ∀ r ∈ instructionRows, r.covers 0x00EF = false := by decide

theorem witness_InstructionIsTwoBytesHighByteFirst : Instr.wf (.jpV0 0xFFF) = true := by decide

theorem witness_RegisterLoadsWriteTheirOperand :
    nibble1 0x6FFF = 0x6 ∧ nibble1 0x8EF0 = 0x8 ∧ nibble4 0x8EF0 = 0x0 := by decide

theorem witness_AddImmediateWrapsAndSetsNoFlag : nibble1 0x7FFF = 0x7 := by decide

theorem witness_BitwiseOperationsActOnEachBit :
    nibble1 0x8F11 = 0x8 ∧ nibble4 0x8F11 = 0x1 ∧ nibble1 0x80F2 = 0x8 ∧ nibble4 0x80F2 = 0x2 ∧
    nibble1 0x8003 = 0x8 ∧ nibble4 0x8003 = 0x3 := by decide

theorem witness_AddSetsCarryFromTheOldOperands :
    nibble1 0x8FF4 = 0x8 ∧ nibble4 0x8FF4 = 0x4 ∧ (14 : Reg) ≠ vF := by decide

theorem witness_SubtractSetsFlagWhenStrictlyGreater :
    nibble1 0x8FF5 = 0x8 ∧ nibble4 0x8FF5 = 0x5 ∧ (0 : Reg) ≠ vF := by decide

theorem witness_ReverseSubtractSetsFlagWhenVyGreater :
    nibble1 0x8FF7 = 0x8 ∧ nibble4 0x8FF7 = 0x7 ∧ (14 : Reg) ≠ vF := by decide

theorem witness_ShiftRightHalvesAndKeepsTheLowBit :
    nibble1 0x8A06 = 0x8 ∧ nibble4 0x8A06 = 0x6 ∧ (10 : Reg) ≠ vF := by decide

theorem witness_ShiftLeftDoublesAndKeepsTheHighBit :
    nibble1 0x80FE = 0x8 ∧ nibble4 0x80FE = 0xE ∧ (0 : Reg) ≠ vF := by decide

theorem witness_RandomByteIsMaskedByTheImmediate : nibble1 0xCF00 = 0xC := by decide

theorem witness_SkipsAddFourWhenTheirConditionHolds :
    nibble1 0x3A42 = 0x3 ∧ nibble1 0x4A42 = 0x4 ∧ nibble1 0x5120 = 0x5 ∧ nibble1 0x9121 = 0x9 := by decide

theorem witness_JumpsSetPcDirectly : nibble1 0x1FFF = 0x1 ∧ nibble1 0xBFFF = 0xB := by decide

/-- The last call that is accepted, and the first that is not. -/
theorem witness_CallPushesItsOwnAddress :
    nibble1 0x2FFF = 0x2 ∧ ({ prog 0x2300 with sp := 14 } : State).sp.toNat < 15 ∧
    15 ≤ ({ prog 0x2300 with sp := 15 } : State).sp.toNat := by decide

/-- The deepest and the shallowest pending return, and the empty stack. -/
theorem witness_ReturnPopsAndAddsTwo :
    (∃ s : State, s.sp = 15 ∧ s.sp ≠ 0 ∧ s.stackAt s.sp.toNat = some 0) ∧
    (∃ s : State, s.sp = 1 ∧ s.sp ≠ 0 ∧ s.stackAt s.sp.toNat = some 0) ∧ (prog 0x00EE).sp = 0 :=
  ⟨⟨{ prog 0x00EE with sp := 15 }, by decide⟩, ⟨{ prog 0x00EE with sp := 1 }, by decide⟩, by decide⟩

/-- The state the call itself leaves is such a `u`. -/
theorem witness_ReturnLandsAfterTheCall :
    ∃ s t u : State, s.sp = 14 ∧ s.sp.toNat < 15 ∧ exec (.call 0x300) s = .next t ∧ u.sp = t.sp ∧
      u.stackAt (s.sp.toNat + 1) = t.stackAt (s.sp.toNat + 1) :=
  ⟨{ prog 0x2300 with sp := 14 }, _, _, rfl, by decide, rfl, rfl, rfl⟩

theorem witness_UnknownOpcodeStallsOrFaults :
    (progContinue 0).cfg.unknownPolicy = .continue ∧ (prog 0).cfg.unknownPolicy = .fatal := by decide

/-- A sprite row of two bits at 0x300, over a lit and an unlit pixel; (5,6) is covered, (7,6) is not. -/
def drawState : State :=
  { ((bytes 0x300 [0xC0] (regs [(1, 5), (2, 6)] (prog 0xD121))).setI 0x300) with pix := [⟨6, 6⟩] }

theorem drawState_covers : SpriteCovers drawState 1 2 1 ⟨5, 6⟩ ∧ SpriteCovers drawState 1 2 1 ⟨6, 6⟩ :=
  ⟨⟨0, 0, by decide⟩, ⟨0, 1, by decide⟩⟩

theorem drawState_spares : ¬ SpriteCovers drawState 1 2 1 ⟨7, 6⟩ := by
  rintro ⟨r, col, hr, hc, hbit, hx, -⟩
  obtain rfl : r = 0 := by omega
  have hx : 7 = (5 + col) % 64 := hx
  obtain rfl : col = 2 := by omega
  exact absurd hbit (by decide)

/-- n = 1 with and without a collision, and n = 0, which covers no pixel. -/
theorem witness_DrawFlipsExactlyTheSpritePixels :
    nibble1 0xD121 = 0xD ∧ drawState.i.toNat + 1 - 1 < drawState.cfg.memSize ∧ Pixels.wf drawState.pix = true ∧
    8 ≤ drawState.cfg.displayWidth ∧ 1 ≤ drawState.cfg.displayHeight ∧ 1 ≤ drawState.cfg.displayHeight ∧
    15 ≤ drawState.cfg.displayHeight ∧
    SpriteCovers drawState 1 2 1 ⟨5, 6⟩ ∧ ¬ SpriteCovers drawState 1 2 1 ⟨7, 6⟩ ∧
    (∃ p, SpriteCovers drawState 1 2 1 p ∧ drawState.pix.lit p = true) ∧
    (¬ ∃ p, SpriteCovers drawState 1 2 0 p ∧ drawState.pix.lit p = true) :=
  ⟨by decide, by decide, by decide, by decide, by decide, by decide, by decide, drawState_covers.1, drawState_spares,
    ⟨⟨6, 6⟩, drawState_covers.2, by decide⟩,
    fun ⟨_, ⟨_, _, h, _⟩, _⟩ => absurd h (Nat.not_lt_zero _)⟩

/-- The last address a draw of 15 rows can start at, and n = 0 anywhere. -/
theorem witness_DrawRunsTheSpriteLoopAndWritesOnlyVF :
    ((prog 0xD12F).setI 0xFF1).i.toNat + (15 : Fin 16).val - 1 < (prog 0xD12F).cfg.memSize ∧ (0 : Fin 16).val = 0 := by
  decide

/-- Key 15 down and up, and the first value that names no key. -/
theorem witness_KeySkipsFollowTheLevelOfTheNamedKey :
    nibble1 0xEF9E = 0xE ∧ fieldKK 0xEF9E = 0x9E ∧ nibble1 0xE0A1 = 0xE ∧ fieldKK 0xE0A1 = 0xA1 ∧
    (15 : Key).val = ((regs [(1, 15)] (prog 0xE19E)).readV 1).toNat ∧
    15 < ((regs [(1, 16)] (prog 0xE19E)).readV 1).toNat := by decide

/-- Key 15 alone under the two scan ranges: found by the whole scan, missed by the short one; key 14 found by both. -/
theorem witness_WaitForKeyTakesTheLowestKeyOrStalls :
    nibble1 0xFF0A = 0xF ∧ fieldKK 0xFF0A = 0x0A ∧
    (15 < (keysDown [15] (prog 0)).cfg.keyScan.count ∧ (keysDown [15] (prog 0)).keys[(15 : Key).val] = true ∧
      ∀ j : Key, j.val < 15 → (keysDown [15] (prog 0)).keys[j.val] = false) ∧
    (14 < KeyScan.first15.count ∧ (keysDown [14, 15] (prog 0)).keys[(14 : Key).val] = true ∧
      ∀ j : Key, j.val < 14 → (keysDown [14, 15] (prog 0)).keys[j.val] = false) ∧
    (∀ k : Key, k.val < KeyScan.first15.count → (keysDown [15] (prog 0)).keys[k.val] = false) := by decide

theorem witness_ReadDelayTimerCopiesTheInteger : nibble1 0xFF07 = 0xF ∧ fieldKK 0xFF07 = 0x07 := by decide

theorem witness_WriteTimerSetsIntegerAndAccumulator :
    nibble1 0xFF15 = 0xF ∧ fieldKK 0xFF15 = 0x15 ∧ nibble1 0xF018 = 0xF ∧ fieldKK 0xF018 = 0x18 := by decide

/-- Both accumulators at their bounds. -/
theorem witness_TimerPhaseDecaysBothTimersAndBeepsOnExpiry :
    ∃ (s : State) (ms : Rat), s.cfg.accFormat = .exact ∧ 0 ≤ ms ∧ s.dta = 0 ∧ 0 ≤ s.dta ∧ s.dta ≤ 255 ∧
      s.sta = 255 ∧ 0 ≤ s.sta ∧ s.sta ≤ 255 :=
  ⟨{ prog 0 with st := 255, sta := 255 }, 5000, by decide +kernel⟩

theorem witness_DecayDependsOnTheElapsedSumOnly :
    ∃ (deltas : List Rat) (s : State), deltas = [0, 50 / 3, 1000] ∧ s.cfg.accFormat = .exact ∧
      (∀ d ∈ deltas, 0 ≤ d) ∧ s.dta = 10 ∧ 0 ≤ s.dta ∧ 0 ≤ s.sta :=
  ⟨_, { prog 0 with dt := 10, dta := 10 }, rfl, by decide +kernel⟩

theorem witness_TimersNeverRiseByThemselves :
    ({ prog 0x2300 with sp := 15, dt := 255, dta := 255, st := 255, sta := 255 } : State).Inv ∧ (0 : Rat) ≤ 50 :=
  ⟨prog_inv_bounds, by decide⟩

theorem witness_AddressRegisterWrites :
    nibble1 0xAFFF = 0xA ∧ nibble1 0xF01E = 0xF ∧ fieldKK 0xF01E = 0x1E ∧ nibble1 0xFF29 = 0xF ∧
    fieldKK 0xFF29 = 0x29 := by decide

/-- The last three bytes of Memory, and one byte further. -/
theorem witness_BcdStoreWritesTheThreeDigits :
    nibble1 0xF133 = 0xF ∧ fieldKK 0xF133 = 0x33 ∧
    ((prog 0xF133).setI 0xFFD).i.toNat + 2 < (prog 0xF133).cfg.memSize ∧ Memory.wf (prog 0xF133).mem = true ∧
    (prog 0xF133).cfg.memSize ≤ ((prog 0xF133).setI 0xFFE).i.toNat + 2 := by decide

/-- All sixteen registers to the last sixteen bytes of Memory, and one byte further. -/
theorem witness_RegisterDumpStoresV0ToVx :
    nibble1 0xFF55 = 0xF ∧ fieldKK 0xFF55 = 0x55 ∧
    ((prog 0xFF55).setI 0xFF0).i.toNat + (15 : Reg).val < (prog 0xFF55).cfg.memSize ∧
    Memory.wf (prog 0xFF55).mem = true ∧ (15 : Reg).val ≤ (15 : Reg).val ∧
    (prog 0xFF55).cfg.memSize ≤ ((prog 0xFF55).setI 0xFF1).i.toNat + (15 : Reg).val := by decide

/-- V0 to VE from the last bytes of Memory; VF is above x; V0 alone from the first address outside. -/
theorem witness_RegisterLoadReadsV0ToVx :
    nibble1 0xFE65 = 0xF ∧ fieldKK 0xFE65 = 0x65 ∧
    ((prog 0xFE65).setI 0xFF1).i.toNat + (14 : Reg).val < (prog 0xFE65).cfg.memSize ∧
    (14 : Reg).val ≤ (14 : Reg).val ∧ (14 : Reg).val < (15 : Reg).val ∧
    (prog 0xFE65).cfg.memSize ≤ ((prog 0xFE65).setI 0x1000).i.toNat + (0 : Reg).val := by decide

/-- A draw whose last row alone lies outside, and one row shorter, which does not fault. -/
theorem witness_MemoryInstructionsFaultOutsideMemory :
    (∃ s t : State, s.status = .running ∧ Instr.bytesAtI (.drw 1 2 15) = some 15 ∧ exec (.drw 1 2 15) s = .next t ∧
      t.isFaulted ∧ (14 < 15 ∧ s.cfg.memSize ≤ s.i.toNat + 14)) ∧
    (∃ s t : State, s.status = .running ∧ Instr.bytesAtI (.drw 1 2 14) = some 14 ∧ exec (.drw 1 2 14) s = .next t ∧
      ¬ t.isFaulted) :=
  ⟨⟨(prog 0xD12F).setI 0xFF2, _, rfl, rfl, withRange_bad (by decide), ⟨_, rfl⟩, by decide⟩,
    ⟨(prog 0xD12E).setI 0xFF2, _, rfl, rfl, withRange_ok (by decide), (by rintro ⟨_, h⟩; cases h)⟩⟩

/-- Two registers dumped to 0x300, and the engine fetching there. -/
theorem witness_FetchSeesTheBytesADumpStored :
    ∃ s t u : State, s = (prog 0xF155).setI 0x300 ∧ s.i.toNat + (1 : Reg).val < s.cfg.memSize ∧
      Memory.wf s.mem = true ∧ (1 : Reg).val = (0 : Reg).val + 1 ∧ (1 : Reg).val ≤ (1 : Reg).val ∧
      exec (.storeRegs 1) s = .next t ∧ u.mem = t.mem ∧ u.cfg = s.cfg ∧ u.pc.toNat = s.i.toNat + (0 : Reg).val ∧
      u.pc.toNat % 2 = 0 :=
  ⟨_, dumpEffect 1 ((prog 0xF155).setI 0x300), (dumpEffect 1 ((prog 0xF155).setI 0x300)).setPc 0x300, rfl,
    by decide, by decide, by decide, by decide, withRange_ok (by decide), rfl, rfl, by decide, by decide⟩

theorem witness_MemoriesThatReadAlikeAreEqual :
    Memory.wf [(0, 0x12), (0xFFFF, 0x34)] = true ∧ Memory.wf (Memory.write (Memory.write [] 0xFFFF 0x34) 0 0x12) = true ∧
    ∀ a, Memory.read [(0, 0x12), (0xFFFF, 0x34)] a = Memory.read (Memory.write (Memory.write [] 0xFFFF 0x34) 0 0x12) a :=
  ⟨by decide, by decide, fun _ => rfl⟩

theorem prog_holds : (prog 0x1200).Holds (encode (.jp 0x200)) := ⟨by decide, by decide, by decide, by decide⟩

/-- A jump that completes; a return with an empty stack, which takes a fault; a return with SP = 16, which stops. -/
theorem witness_StepRunsTheInstructionAtPc :
    ((prog 0x1200).Ready 0 ∧ Instr.wf (.jp 0x200) = true ∧ (prog 0x1200).Holds (encode (.jp 0x200)) ∧
      ∃ t, exec (.jp 0x200) (prog 0x1200) = .next t ∧ ¬ t.isFaulted) ∧
    ((prog 0x00EE).Ready 0 ∧ Instr.wf .ret = true ∧ (prog 0x00EE).Holds (encode .ret) ∧
      ∃ t, exec .ret (prog 0x00EE) = .next t ∧ t.isFaulted) ∧
    (({ prog 0x00EE with sp := 16 } : State).Ready 0 ∧ ({ prog 0x00EE with sp := 16 } : State).Holds (encode .ret) ∧
      ∃ f, exec .ret { prog 0x00EE with sp := 16 } = .fault f) :=
  ⟨⟨prog_ready, by decide, prog_holds, _, rfl, fun ⟨_, h⟩ => nomatch h⟩,
    ⟨⟨by decide, by decide, by decide +kernel, by decide⟩, by decide, ⟨by decide, by decide, by decide, by decide⟩,
      _, rfl, _, rfl⟩,
    ⟨by decide, by decide, by decide +kernel, by decide⟩, ⟨by decide, by decide, by decide, by decide⟩, _, rfl⟩

/-- The odd address whose second byte lies outside too, and the last even address whose second byte lies outside. -/
theorem witness_FetchFaultsAtOddOrOutsidePc :
    (((prog 0).setPc 0xFFF).Ready 0 ∧ ((prog 0).setPc 0xFFF).pc.toNat % 2 = 1) ∧
    (((prog 0).setPc 0x1000).Ready 0 ∧ ((prog 0).setPc 0x1000).pc.toNat % 2 = 0 ∧
      ((prog 0).setPc 0x1000).cfg.memSize ≤ ((prog 0).setPc 0x1000).pc.toNat + 1) :=
  ⟨⟨⟨by decide, by decide, by decide +kernel, by decide⟩, by decide⟩,
    ⟨by decide, by decide, by decide +kernel, by decide⟩, by decide, by decide⟩

theorem witness_StepStopsOutsideItsPreconditions :
    (State.reset.hostTurns = [] ∧ State.reset.status = .unloaded) ∧
    ((prog 0).hostTurns = [] ∧ (prog 0).status = .running ∧
      ({ prog 0 with elapsed := .nonFinite } : State).elapsed = .nonFinite) ∧
    ((elapsed (-1) (prog 0)).elapsed = .finite (-1) ∧ (-1 : Rat) < 0) ∧
    (∃ (s : State) (r : FaultRecord), s.status = .faulted r) :=
  ⟨by decide, by decide +kernel, by decide +kernel,
    raise .stackUnderflow none (prog 0), _, rfl⟩

/-- A turn that only sets the inputs, one that loads a ROM, one whose ROM is too short. -/
theorem witness_HostTurnComesBeforeTheStep :
    ∃ (turn load bad : HostTurn) (s l : State), ¬ s.isFaulted ∧ turn.rom = none ∧ turn.flushSpeaker = true ∧
      load.rom = some [0x61, 0xAB] ∧ loadRom [0x61, 0xAB] s = .ok l ∧
      bad.rom = some [0x61] ∧ loadRom [0x61] s = .error (.romTooShort 1) ∧
      ({ s with hostTurns := [turn, load, bad] } : State).hostTurns = turn :: [load, bad] :=
  ⟨⟨none, true, none, State.reset.keys, .finite 16⟩, ⟨some [0x61, 0xAB], false, none, State.reset.keys, .finite 0⟩,
    ⟨some [0x61], false, none, State.reset.keys, .finite 0⟩, State.reset, _, (by rintro ⟨_, h⟩; cases h), rfl, rfl, rfl,
    rfl, rfl, rfl, rfl⟩

theorem ready_ret : (prog 0x00EE).Ready 0 := ⟨by decide, by decide, by decide +kernel, by decide⟩

/-- A step that takes a fault: a return with an empty stack. -/
theorem step_ret_faults : step (prog 0x00EE) = .next (raise .stackUnderflow (some 0x00EE) (prog 0x00EE)) := by
  rw [step_of_running ready_ret.running ready_ret.no_turn ready_ret.elapsed ready_ret.nonneg,
    fetchExecute_ok 0 (op := 0x00EE) (by decide)]
  rfl

theorem ready_odd : ((prog 0).setPc 0x201).Ready 0 := ⟨by decide, by decide, by decide +kernel, by decide⟩

/-- A step that takes a fault of the fetch: an odd PC. -/
theorem step_odd_faults : step ((prog 0).setPc 0x201) = .next (raise .pcMisaligned none ((prog 0).setPc 0x201)) := by
  rw [step_of_running ready_odd.running ready_odd.no_turn ready_odd.elapsed ready_odd.nonneg,
    fetchExecute_error 0 (fetch_misaligned (by decide))]

/-- A fault of the instruction and a fault of its fetch. -/
theorem witness_FaultingStepChangesOnlyTheStatus :
    (∃ s t : State, s.Ready 0 ∧ step s = .next t ∧ t.isFaulted ∧ ∃ op, fetch s = .ok op) ∧
    (∃ s t : State, s.Ready 0 ∧ step s = .next t ∧ t.isFaulted ∧ ∃ k, fetch s = .error k) :=
  ⟨⟨_, _, ready_ret, step_ret_faults, ⟨_, rfl⟩, 0x00EE, by decide⟩,
    ⟨_, _, ready_odd, step_odd_faults, ⟨_, rfl⟩, _, fetch_misaligned (by decide)⟩⟩

theorem witness_EachInstructionRaisesOnlyItsOwnFault :
    ∃ s t : State, ∃ r, s.status = .running ∧ exec (.call 0x300) s = .next t ∧ t.status = .faulted r :=
  ⟨{ prog 0x2300 with sp := 15 }, _, _, rfl, rfl, rfl⟩

theorem witness_NoInstructionStopsAReachableMachine : (prog 0x1200).Inv ∧ (prog 0x1200).Ready 0 :=
  ⟨prog_inv, prog_ready⟩

theorem witness_NoOtherRegisterIsWritten :
    ∃ t, exec (.addReg 1 2) (prog 0x8124) = .next t ∧ Instr.mayWrite (.addReg 1 2) 2 = false := ⟨_, rfl, rfl⟩

theorem witness_OnlyTwoInstructionsStore :
    ∃ t, exec (.loadRegs 15) (prog 0xFF65) = .next t ∧ Instr.stores (.loadRegs 15) = false := ⟨_, rfl, rfl⟩

/-- `Ex9E` meets every clause's premise. -/
theorem witness_EachPieceOfStateHasItsWriters :
    ∃ t, exec (.skp 1) (prog 0xE19E) = .next t ∧ Instr.writesI (.skp 1) = false ∧ Instr.skp 1 ≠ .ret ∧
      (∀ nnn, Instr.skp 1 ≠ .call nnn) ∧ (∀ x, Instr.skp 1 ≠ .ldDtVx x) ∧ (∀ x, Instr.skp 1 ≠ .ldStVx x) ∧
      Instr.skp 1 ≠ .cls ∧ (∀ x y n, Instr.skp 1 ≠ .drw x y n) ∧ (∀ op, Instr.skp 1 ≠ .unknown op) :=
  ⟨_, rfl, rfl, nofun, nofun, nofun, nofun, nofun, nofun, nofun⟩

theorem witness_PcAdvancesByTwoUnlessStatedOtherwise :
    ∃ t : State, (prog 0x61AB).status = .running ∧ exec (.ldImm 1 0xAB) (prog 0x61AB) = .next t ∧ ¬ t.isFaulted ∧
      Instr.steersPc (.ldImm 1 0xAB) = false := ⟨_, rfl, rfl, (by rintro ⟨_, h⟩; cases h), rfl⟩

/-- A step that does not fault: the self-jump. -/
theorem step_jp : step (prog 0x1200) = .next (timerPhase 0 (prog 0x1200)) := by
  rw [step_of_running prog_ready.running prog_ready.no_turn prog_ready.elapsed prog_ready.nonneg,
    fetchExecute_ok 0 (op := 0x1200) (by decide)]
  rfl

theorem witness_StepKeepsTheConfiguration : ∃ s t : State, step s = .next t := ⟨_, _, step_jp⟩

theorem witness_CreationMeetsTheInvariant : Config.defaultCfg.Valid := defaultCfg_valid

theorem witness_EveryStepKeepsTheInvariant : ∃ s t : State, s.Inv ∧ step s = .next t := ⟨_, _, prog_inv, step_jp⟩

theorem witness_NonPositiveClockRateCreatesNoEngine :
    ({ Config.defaultCfg with clockRate := 0 } : Cfg).clockRate ≤ 0 ∧ Config.defaultCfg.Valid :=
  ⟨by decide, defaultCfg_valid⟩

/-- The shortest and the longest ROM that is accepted. -/
theorem witness_LoadRomLaysOutMemoryAndResetsPc :
    State.reset.cfg.Valid ∧ 2 ≤ [0x12#8, 0x00#8].length ∧ 2 ≤ (List.replicate 3584 0x12#8).length ∧
    (List.replicate 3584 0x12#8).length ≤ State.reset.cfg.memSize - State.reset.cfg.programAddress :=
  ⟨defaultCfg_valid, by decide, by rw [List.length_replicate]; decide, by rw [List.length_replicate]; decide⟩

/-- The longest ROM that is too short, an odd length that is accepted, and the shortest that is too long. -/
theorem witness_LoadRomRejectsWrongSizes :
    [0x12#8].length < 2 ∧ (2 ≤ [0x12#8, 0#8, 0#8].length ∧
      [0x12#8, 0#8, 0#8].length ≤ State.reset.cfg.memSize - State.reset.cfg.programAddress) ∧
    2 ≤ (List.replicate 3585 0x12#8).length ∧
    State.reset.cfg.memSize - State.reset.cfg.programAddress < (List.replicate 3585 0x12#8).length := by
  rw [List.length_replicate]
  decide

theorem witness_SelfJumpKeepsEverythingButTheTimers : (prog 0x1200).Ready 0 ∧ AtEnd (prog 0x1200) :=
  ⟨prog_ready, 0x200, by decide, prog_holds⟩

/-- `Fx0A` with no key down, and 0x0000 under `Continue`. -/
theorem witness_StalledStepsAccumulateOnlyLogRecords :
    ((prog 0xF50A).Ready 0 ∧ (prog 0xF50A).Holds (encode (.ldVxK 5)) ∧
      ∀ j : Key, (prog 0xF50A).keys[j.val] = false) ∧
    ((progContinue 0).Ready 0 ∧ isInstructionWord 0 = false ∧ (progContinue 0).Holds 0 ∧
      (progContinue 0).cfg.unknownPolicy = .continue) :=
  ⟨⟨⟨by decide, by decide, by decide +kernel, by decide⟩, ⟨by decide, by decide, by decide, by decide⟩, by decide⟩,
    ⟨by decide, by decide, by decide +kernel, by decide⟩, by decide, ⟨by decide, by decide, by decide, by decide⟩,
    by decide⟩

theorem witness_SoundTimerIsInvisibleToTheProgram : ∃ s t : State, step s = .next t := ⟨_, _, step_jp⟩

end Sys2Proof.Tests
end

section
/-! Creation: the two answers of `createEngine`, and O53, which puts them together. -/

namespace Sys2Proof.Machine

/-- R9, R207: the configuration error. -/
theorem createEngine_of_nonpos {c : Cfg} (h : c.clockRate ≤ 0) :
    createEngine c = .error .nonPositiveClockRate :=
  if_pos h

/-- R207 names no other check, so a positive clock rate is enough for creation. -/
theorem createEngine_of_pos {c : Cfg} (h : 0 < c.clockRate) :
    createEngine c = .ok (State.created c) :=
  if_neg (not_le.mpr h)

/-- Settles O53: of a legal configuration only `clock_pos` matters. -/
theorem nonPositiveClockRateCreatesNoEngine : Obligations.NonPositiveClockRateCreatesNoEngine :=
  fun _ => ⟨createEngine_of_nonpos, fun valid => createEngine_of_pos valid.clock_pos⟩

end Sys2Proof.Machine
end

section
/-! What Execute can do, said once: every state an instruction answers is one of the changes listed here, each under the
instructions that may ask for it. The frames over all instructions (O45, O47) and the invariant (O51) read it off case
by case. -/

namespace Sys2Proof.Machine

/-- What Execute of an instruction can do in the state `s` (R94, R99, R209): the fault that is the instruction's own, or
the change that one of the model's named operations makes, with the guard under which it happens where the invariant
needs it. `exec_change` ties it to `exec`. -/
inductive Change (s : State) : Instr → State → Prop
  | fault {i : Instr} {k : FaultKind} (h : i.mayRaise k) : Change s i (raise k (some (encode i)) s)
  | steer {i : Instr} (w : Word) (h : i.steersPc = true) : Change s i (s.setPc w)
  | register {i : Instr} (x : Reg) (b : Byte) (h : i.mayWrite x = true) : Change s i (s.writeV x b).advance
  | result {i : Instr} (x : Reg) (b : Byte) (c : Bool) (hx : i.mayWrite x = true) (hf : i.mayWrite vF = true) :
      Change s i (s.writeResult x b c).advance
  | index {i : Instr} (w : Word) (h : i.writesI = true) : Change s i (s.setI w).advance
  | clear : Change s .cls s.clearDisplay.advance
  | ret (w : Word) (h : s.sp ≠ 0) : Change s .ret (s.drop.setPc w)
  | call (nnn : Addr12) (h : s.sp.toNat < 15) : Change s (.call nnn) ((s.push s.pc).setPc (zextAddr nnn))
  | random (x : Reg) (kk b : Byte) : Change s (.rnd x kk) (s.nextFree.writeV x b).advance
  | draw (x y : Reg) (n : Fin 16) : Change s (.drw x y n) (drawEffect x y n s)
  | stall (x : Reg) : Change s (.ldVxK x) s
  | delay (x : Reg) (b : Byte) : Change s (.ldDtVx x) (s.setDelay b).advance
  | sound (x : Reg) (b : Byte) : Change s (.ldStVx x) (s.setSound b).advance
  | digits (x : Reg) (h : s.rangeOk 3 = true) : Change s (.ldB x) (bcdEffect x s)
  | dump (x : Reg) (h : s.rangeOk (x.val + 1) = true) : Change s (.storeRegs x) (dumpEffect x s)
  | load (x : Reg) : Change s (.loadRegs x) (loadEffect x s)
  | logged (op : Word) : Change s (.unknown op) (s.addLog op)

section
variable {i : Instr} {s t : State}

/-! ## The instructions that take a branch -/

theorem execRet_change (h : execRet s = .next t) : Change s .ret t := by
  unfold execRet at h
  split at h
  · cases h; exact .fault trivial
  · split at h <;> cases h
    exact .ret _ ‹_›

theorem execCall_change {nnn : Addr12} (h : execCall nnn s = .next t) : Change s (.call nnn) t := by
  unfold execCall at h
  split at h <;> cases h
  · exact .fault trivial
  · exact .call nnn (Nat.not_le.mp ‹_›)

theorem execLdVxK_change {x : Reg} (h : execLdVxK x s = .next t) : Change s (.ldVxK x) t := by
  unfold execLdVxK at h
  split at h <;> cases h
  · exact .register x _ (beq_self_eq_true x)
  · exact .stall x

theorem execUnknown_change {op : Word} (h : execUnknown op s = .next t) : Change s (.unknown op) t := by
  unfold execUnknown at h
  split at h <;> cases h
  · exact .logged op
  · exact .fault trivial

/-- A memory instruction faults with its own word, or its range is in Memory and its effect happens (R205). -/
theorem withRange_change {len : Nat} {effect : State} (hf : ∀ a, i.mayRaise (.memOutOfRange a))
    (he : s.rangeOk len = true → Change s i effect) (h : withRange len (encode i) s effect = .next t) :
    Change s i t := by
  rcases withRange_cases h with ⟨hr, rfl⟩ | ⟨-, rfl⟩
  · exact he hr
  · exact .fault (hf _)

/-- A key skip faults with its own word, or steers the PC (R206). -/
theorem keySkip_change {wanted : Bool} {x : Reg} (hf : ∀ b, i.mayRaise (.keyOutOfRange b))
    (hs : i.steersPc = true) (h : keySkip wanted x (encode i) s = .next t) : Change s i t := by
  rcases keySkip_cases wanted x (encode i) s with ⟨k, -, hk⟩ | ⟨-, hk⟩ <;> rw [hk] at h <;> cases h
  · exact .steer _ hs
  · exact .fault (hf _)

/-! ## All instructions -/

/-- R94: one case per instruction. -/
theorem exec_change (h : exec i s = .next t) : Change s i t := by
  cases i with
  | cls => cases h; exact .clear
  | ret => exact execRet_change h
  | call nnn => exact execCall_change h
  | jp _ | jpV0 _ | seImm _ _ | sneImm _ _ | seReg _ _ | sneReg _ _ => cases h; exact .steer _ rfl
  | ldImm x _ | addImm x _ | ldReg x _ | orReg x _ | andReg x _ | xorReg x _ | ldVxDt x =>
    cases h; exact .register x _ (beq_self_eq_true x)
  | addReg x _ | subReg x _ | shr x _ | subn x _ | shl x _ =>
    cases h; exact .result x _ _ (by simp [Instr.mayWrite]) (by simp [Instr.mayWrite])
  | ldI _ | addI _ | ldF _ => cases h; exact .index _ rfl
  | rnd x kk => cases h; exact .random x kk _
  | drw x y n => exact withRange_change (fun _ => trivial) (fun _ => .draw x y n) h
  | skp _ | sknp _ => exact keySkip_change (fun _ => trivial) rfl h
  | ldVxK x => exact execLdVxK_change h
  | ldDtVx x => cases h; exact .delay x _
  | ldStVx x => cases h; exact .sound x _
  | ldB x => exact withRange_change (fun _ => trivial) (.digits x) h
  | storeRegs x => exact withRange_change (fun _ => trivial) (.dump x) h
  | loadRegs x => exact withRange_change (fun _ => trivial) (fun _ => .load x) h
  | unknown op => exact execUnknown_change h

/-! ## What each piece of state keeps -/

theorem Change.readV_eq {r : Reg} (c : Change s i t) (h : i.mayWrite r = false) : t.readV r = s.readV r := by
  have other {x : Reg} (hx : i.mayWrite x = true) : r ≠ x := by
    rintro rfl
    simp [hx] at h
  cases c with
  | register x b hx => simp [State.readV_writeV_other _ b (other hx)]
  | result x b c hx hf => simp [State.readV_writeResult, other hx, other hf]
  | random x kk b => simp [State.readV_writeV_other _ b (other (beq_self_eq_true x))]
  | draw x y n => exact State.readV_writeV_other _ _ (other (beq_self_eq_true vF))
  | load x =>
    have hr : ¬ r.val ≤ x.val := by simpa [Instr.mayWrite] using h
    simp [loadEffect, readV_loadFrom, hr]
  | _ => rfl

theorem Change.i_eq (c : Change s i t) (h : i.writesI = false) : t.i = s.i := by
  cases c with
  | index w hw => simp [hw] at h
  | dump x _ => cases h
  | load x => cases h
  | _ => rfl

theorem Change.sp_eq (c : Change s i t) (hret : i ≠ .ret) (hcall : ∀ nnn, i ≠ .call nnn) : t.sp = s.sp := by
  cases c with
  | ret => exact absurd rfl hret
  | call nnn => exact absurd rfl (hcall nnn)
  | _ => rfl

theorem Change.stack_eq (c : Change s i t) (h : ∀ nnn, i ≠ .call nnn) : t.stack = s.stack := by
  cases c with
  | call nnn => exact absurd rfl (h nnn)
  | _ => rfl

theorem Change.delay_eq (c : Change s i t) (h : ∀ x, i ≠ .ldDtVx x) : t.dt = s.dt ∧ t.dta = s.dta := by
  cases c with
  | delay x => exact absurd rfl (h x)
  | _ => exact ⟨rfl, rfl⟩

theorem Change.sound_eq (c : Change s i t) (h : ∀ x, i ≠ .ldStVx x) : t.st = s.st ∧ t.sta = s.sta := by
  cases c with
  | sound x => exact absurd rfl (h x)
  | _ => exact ⟨rfl, rfl⟩

theorem Change.display_eq (c : Change s i t) (hcls : i ≠ .cls) (hdrw : ∀ x y n, i ≠ .drw x y n) :
    t.pix = s.pix ∧ t.dirty = s.dirty := by
  cases c with
  | clear => exact absurd rfl hcls
  | draw x y n => exact absurd rfl (hdrw x y n)
  | _ => exact ⟨rfl, rfl⟩

theorem Change.log_eq (c : Change s i t) (h : ∀ op, i ≠ .unknown op) : t.log = s.log := by
  cases c with
  | logged op => exact absurd rfl (h op)
  | _ => rfl

theorem Change.cfg_eq (c : Change s i t) : t.cfg = s.cfg := by cases c <;> rfl

/-- R35, R36, R42: the host's inputs and the speaker flag have no writer in Execute. -/
theorem Change.inputs_eq (c : Change s i t) :
    t.keys = s.keys ∧ t.elapsed = s.elapsed ∧ t.hostTurns = s.hostTurns ∧ t.beepPending = s.beepPending := by
  cases c <;> exact ⟨rfl, rfl, rfl, rfl⟩

end

/-- Settles O45, through `exec_change`. -/
theorem noOtherRegisterIsWritten : Obligations.NoOtherRegisterIsWritten :=
  fun _ _ _ _ h hw => (exec_change h).readV_eq hw

/-- Settles O47: one clause per piece of state, each a fact about `Change`. -/
theorem eachPieceOfStateHasItsWriters : Obligations.EachPieceOfStateHasItsWriters := fun _ _ _ h =>
  have c := exec_change h
  ⟨c.i_eq, c.sp_eq, c.stack_eq, c.delay_eq, c.sound_eq, c.display_eq, c.log_eq, c.cfg_eq, c.inputs_eq⟩

end Sys2Proof.Machine
end

section
/-! What the host's turn and a whole step keep: a property that each of their parts keeps. O49 and O51 are its two uses. -/

namespace Sys2Proof.Machine

/-- R242, R243: a `load_rom` that succeeds had room for the ROM, and writes memory, PC and status. -/
theorem loadRom_ok {rom : List Byte} {s t : State} (h : loadRom rom s = .ok t) :
    rom.length ≤ romRoom s.cfg ∧
      t = { s with mem := loadedMemory s.cfg rom, pc := BitVec.ofNat 16 s.cfg.programAddress,
                   status := .running } := by
  unfold loadRom at h
  split at h
  · cases h
  · split at h <;> cases h
    exact ⟨Nat.not_lt.mp ‹_›, rfl⟩

/-- R245: the host takes no turn, or takes the first one: a `load_rom` if it asks for one, then the rest of it. -/
theorem hostTurn_cases {s t : State} (h : hostTurn s = .ok t) :
    t = s ∨ ∃ turn rest r, s.hostTurns = turn :: rest ∧
      loadIfAsked turn.rom { s with hostTurns := rest } = .ok r ∧ t = r.hostSettings turn := by
  unfold hostTurn at h
  split at h
  · cases h; exact .inl rfl
  · unfold applyTurn at h
    split at h <;> cases h
    exact .inr ⟨_, _, _, ‹_›, ‹_›, rfl⟩

section
variable (P : State → Prop) (hqueue : ∀ s rest, P s → P { s with hostTurns := rest })
  (hload : ∀ rom s t, P s → loadRom rom s = .ok t → P t) (hset : ∀ turn s, P s → P (s.hostSettings turn))

include hqueue hload hset

theorem hostTurn_preserves {s t : State} (hs : P s) (h : hostTurn s = .ok t) : P t := by
  rcases hostTurn_cases h with rfl | ⟨turn, rest, r, -, hr, rfl⟩
  · exact hs
  · apply hset
    cases hrom : turn.rom with
    | none =>
      rw [hrom] at hr
      cases hr
      exact hqueue _ _ hs
    | some rom =>
      rw [hrom] at hr
      exact hload rom _ _ (hqueue _ _ hs) hr

/-- A property that the parts of the host's turn, a fetch fault, Execute and the timer phase keep is kept by the step. -/
theorem step_preserves (hraise : ∀ k s, P s → P (raise k none s))
    (hexec : ∀ i s t, P s → Change s i t → P t) (htimer : ∀ ms s, 0 ≤ ms → P s → P (timerPhase ms s))
    {s t : State} (hs : P s) (h : step s = .next t) : P t := by
  obtain ⟨s', ms, -, hturn, -, -, hms, hstep⟩ := step_cases h
  have hs' : P s' := hostTurn_preserves P hqueue hload hset hs hturn
  rcases hstep with ⟨k, -, rfl⟩ | ⟨op, u, -, hx, rfl⟩
  · exact hraise k s' hs'
  · have hu : P u := hexec _ _ _ hs' (exec_change hx)
    unfold endOfStep
    split
    · exact hu
    · exact htimer ms u hms hu
    · exact htimer ms u hms hu

end

/-- Settles O49, by `step_preserves`. -/
theorem stepKeepsTheConfiguration : Obligations.StepKeepsTheConfiguration := fun s _ h =>
  step_preserves (fun t => t.cfg = s.cfg) (fun _ _ hs => hs)
    (fun _ _ _ hs hl => by obtain ⟨-, rfl⟩ := loadRom_ok hl; exact hs) (fun _ _ hs => hs)
    (fun _ _ hs => hs) (fun _ _ _ hs c => c.cfg_eq.trans hs) (fun _ _ _ hs => hs) rfl h

end Sys2Proof.Machine
end

section
/-! The invariant: it holds at creation (O50, with the values creation leaves, O52), every part of a step keeps it (O51),
and under it no timer rises in a timer phase (O30). -/

namespace Sys2Proof.Machine

/-! ## Timers whose accumulator is a whole number -/

theorem floor_byte (b : Byte) : ((b.toNat : Rat)).floor = (b.toNat : Int) :=
  Rat.floor_intCast b.toNat

theorem ceil_byte (b : Byte) : ((b.toNat : Rat)).ceil = (b.toNat : Int) :=
  Rat.ceil_intCast b.toNat

theorem byte_le (b : Byte) : (b.toNat : Rat) ≤ 255 := by
  have : b.toNat ≤ 255 := Nat.le_of_lt_succ b.isLt
  exact_mod_cast this

/-! ## Creation -/

/-- R40, R244: memory and display are empty and every number is 0. -/
theorem State.created_inv {c : Cfg} (hc : c.Valid) : (State.created c).Inv where
  cfg_valid := hc
  sp_le := Nat.zero_le 15
  dta_nonneg := le_rfl
  dta_le := byte_le 0
  dt_floor := (floor_byte 0).symm
  sta_nonneg := le_rfl
  sta_le := byte_le 0
  st_ceil := (ceil_byte 0).symm
  mem_wf := rfl
  mem_below := rfl
  pix_wf := rfl
  pix_within := rfl

/-- R5 to R10: the default configuration is legal. -/
theorem defaultCfg_valid : Config.defaultCfg.Valid :=
  ⟨by decide, by decide, by decide, by decide, by decide, by decide, by decide, one_pos, by decide⟩

/-- Settles O50, by `State.created_inv`. -/
theorem creationMeetsTheInvariant : Obligations.CreationMeetsTheInvariant :=
  ⟨fun _ => State.created_inv, State.created_inv defaultCfg_valid⟩

/-- Settles O52: every field is written out in `State.created`. -/
theorem creationLeavesTheResetValues : Obligations.CreationLeavesTheResetValues := by
  intro c
  have hv (r : Reg) : (State.created c).readV r = 0 := Vector.getElem_replicate _
  have hstack (k : Nat) (hk : k < 16) : (State.created c).stackAt k = some 0 := by
    rw [stackAt_some _ hk]
    exact congrArg some (Vector.getElem_replicate _)
  exact ⟨_, rfl, rfl, hv, rfl, hstack, rfl, rfl, rfl, rfl, rfl, rfl, fun _ => rfl, rfl⟩

/-! ## What keeps the invariant -/

section
variable {s : State} (h : s.Inv)

include h

/-- R56, R242: the font lies below the program, and the ROM fits above it. -/
theorem State.Inv.loadRom {rom : List Byte} {t : State} (hl : loadRom rom s = .ok t) : t.Inv := by
  obtain ⟨hroom, rfl⟩ := loadRom_ok hl
  obtain ⟨-, hfont, -, -, hprog, -, -, -, hlen⟩ := h.cfg_valid
  have font_fits : 0 + (s.cfg.fontTable.take Config.fontBytes).length ≤ s.cfg.memSize := by
    rw [List.length_take, hlen]
    omega
  have rom_fits : s.cfg.programAddress + rom.length ≤ s.cfg.memSize := by
    unfold romRoom at hroom
    omega
  exact { h with
    mem_wf := Memory.wf_writeBytes (Memory.wf_writeBytes rfl 0 _) _ rom
    mem_below := Memory.below_writeBytes (Memory.below_writeBytes rfl 0 _ font_fits) _ rom rom_fits }

/-- A store of bytes whose range passed the check of R205 stays inside Memory. -/
theorem State.Inv.setMem {bs : List Byte} (hr : s.rangeOk bs.length = true) :
    (s.setMem (Memory.writeBytes s.mem s.base bs)).Inv := by
  have hfit : bs = [] ∨ s.base + bs.length ≤ s.cfg.memSize := by
    rcases (rangeOk_iff s bs.length).mp hr with h0 | hlt
    · exact .inl (List.length_eq_zero_iff.mp h0)
    · unfold State.base
      omega
  refine { h with mem_wf := Memory.wf_writeBytes h.mem_wf _ _, mem_below := ?_ }
  rcases hfit with rfl | hfit
  · exact h.mem_below
  · exact Memory.below_writeBytes h.mem_below _ _ hfit

theorem State.Inv.draw (x y : Reg) (n : Fin 16) : (drawEffect x y n s).Inv := by
  have hw : 0 < s.cfg.displayWidth := Nat.lt_of_lt_of_le (by decide) h.cfg_valid.width_ge
  have hh : 0 < s.cfg.displayHeight := h.cfg_valid.height_ge
  exact { h with
    pix_wf := drawSprite_wf hw hh h.pix_wf _ _ _
    pix_within := drawSprite_within hw hh h.pix_within _ _ _ }

/-- R29, R39, R50: Execute keeps the invariant. -/
theorem State.Inv.change {i : Instr} {t : State} (c : Change s i t) : t.Inv := by
  cases c with
  | clear => exact { h with pix_wf := rfl, pix_within := rfl }
  | ret w hsp =>
    have hle := h.sp_le
    have hdrop : (s.sp - 1).toNat ≤ 15 := by bv_omega
    exact { h with sp_le := hdrop }
  | call nnn hsp =>
    have hpush : (s.sp + 1).toNat ≤ 15 := by bv_omega
    exact { h with sp_le := hpush }
  | draw x y n => exact h.draw x y n
  | delay x b =>
    exact { h with dta_nonneg := Nat.cast_nonneg _, dta_le := byte_le b, dt_floor := (floor_byte b).symm }
  | sound x b =>
    exact { h with sta_nonneg := Nat.cast_nonneg _, sta_le := byte_le b, st_ceil := (ceil_byte b).symm }
  | digits x hr => exact { h.setMem (bs := bcdDigits (s.readV x)) hr with }
  | dump x hr =>
    rw [← length_dumpBytes x s] at hr
    exact { h.setMem hr with }
  | _ => exact { h with }

/-- R29: the timer phase lowers each accumulator within 0..255 and sets the timer from it. -/
theorem State.Inv.timerPhase {ms : Rat} (hms : 0 ≤ ms) : (timerPhase ms s).Inv := by
  have hu := timerUnits_nonneg s.cfg.accFormat hms
  have dta_nonneg := decay_nonneg s.cfg.accFormat (timerUnits s.cfg.accFormat ms) h.dta_nonneg
  have sta_nonneg := decay_nonneg s.cfg.accFormat (timerUnits s.cfg.accFormat ms) h.sta_nonneg
  have dta_le := (decay_le s.cfg.accFormat h.dta_nonneg hu).trans h.dta_le
  have sta_le := (decay_le s.cfg.accFormat h.sta_nonneg hu).trans h.sta_le
  exact { h with
    dta_nonneg, dta_le, sta_nonneg, sta_le
    dt_floor := delayValue_toNat dta_nonneg dta_le
    st_ceil := soundValue_toNat sta_nonneg sta_le }

end

/-- Settles O51, by `step_preserves`. -/
theorem everyStepKeepsTheInvariant : Obligations.EveryStepKeepsTheInvariant := fun _ _ hs h =>
  step_preserves State.Inv (fun _ _ hs => { hs with }) (fun _ _ _ hs hl => hs.loadRom hl) (fun _ _ hs => { hs with })
    (fun _ _ hs => { hs with }) (fun _ _ _ hs c => hs.change c) (fun _ _ hms hs => hs.timerPhase hms) hs h

/-- Settles O30: the accumulators do not rise, and the timers are the floor and the ceiling of them, before and after. -/
theorem timersNeverRiseByThemselves : Obligations.TimersNeverRiseByThemselves := by
  intro s ms h hms
  have h' := h.timerPhase hms
  have hu := timerUnits_nonneg s.cfg.accFormat hms
  have hdta : (timerPhase ms s).dta ≤ s.dta := decay_le s.cfg.accFormat h.dta_nonneg hu
  have hsta : (timerPhase ms s).sta ≤ s.sta := decay_le s.cfg.accFormat h.sta_nonneg hu
  have hdt : ((timerPhase ms s).dt.toNat : Int) ≤ s.dt.toNat := by
    rw [h'.dt_floor, h.dt_floor]
    exact Rat.floor_monotone hdta
  have hst : ((timerPhase ms s).st.toNat : Int) ≤ s.st.toNat := by
    rw [h'.st_ceil, h.st_ceil]
    exact Rat.ceil_le_iff.mpr (hsta.trans Rat.le_ceil)
  exact ⟨Int.ofNat_le.mp hdt, Int.ofNat_le.mp hst, h'.dta_nonneg, hdta, h'.sta_nonneg, hsta⟩

end Sys2Proof.Machine
end

section
/-! The canonical form of memory is unique: O37. -/

namespace Sys2Proof.Machine

namespace Memory

theorem read_head (c : Host.Cell) (m : Memory) : read (c :: m) c.1 = c.2 := if_pos rfl

/-- Two canonical memories that read alike list the same address first: the lower of two different first addresses
would read as a listed byte in the one and as unlisted in the other. -/
theorem not_lt_of_reads_alike {c d : Host.Cell} {m n : Memory} (hm : wf (c :: m) = true) (hn : wf (d :: n) = true)
    (h : ∀ a, read (c :: m) a = read (d :: n) a) : ¬ c.1 < d.1 := by
  intro hlt
  obtain ⟨hc, -, -⟩ := wf_cons.mp hm
  obtain ⟨-, hall, -⟩ := wf_cons.mp hn
  have hd : read (d :: n) c.1 = unlisted := by
    refine read_of_below_all fun e he => ?_
    rcases List.mem_cons.mp he with rfl | he
    · exact hlt
    · exact hlt.trans (hall e he)
  exact hc ((read_head c m).symm.trans ((h c.1).trans hd))

theorem not_reads_unlisted {c : Host.Cell} {m : Memory} (hm : wf (c :: m) = true) :
    ¬ ∀ a, read (c :: m) a = unlisted := by
  obtain ⟨hc, -, -⟩ := wf_cons.mp hm
  exact fun h => hc ((read_head c m).symm.trans (h c.1))

theorem eq_of_reads_alike {m n : Memory} (hm : wf m = true) (hn : wf n = true)
    (h : ∀ a, read m a = read n a) : m = n := by
  induction m generalizing n with
  | nil =>
    cases n with
    | nil => rfl
    | cons d n => exact absurd (fun a => (h a).symm) (not_reads_unlisted hn)
  | cons c m ih =>
    cases n with
    | nil => exact absurd h (not_reads_unlisted hm)
    | cons d n =>
      have haddr : c.1 = d.1 :=
        Nat.le_antisymm (Nat.not_lt.mp (not_lt_of_reads_alike hn hm fun a => (h a).symm))
          (Nat.not_lt.mp (not_lt_of_reads_alike hm hn h))
      have hbyte : c.2 = d.2 := by simpa [read, haddr] using h c.1
      obtain ⟨-, hallm, hm'⟩ := wf_cons.mp hm
      obtain ⟨-, halln, hn'⟩ := wf_cons.mp hn
      have htail (a : Nat) : read m a = read n a := by
        by_cases ha : c.1 = a
        · subst ha
          rw [read_of_below_all hallm, read_of_below_all (haddr ▸ halln)]
        · simpa [read, ha, ← haddr] using h a
      rw [Prod.ext haddr hbyte, ih hm' hn' htail]

end Memory

/-- Settles O37, by induction on the two lists. -/
theorem memoriesThatReadAlikeAreEqual : Obligations.MemoriesThatReadAlikeAreEqual :=
  fun _ _ => Memory.eq_of_reads_alike

end Sys2Proof.Machine
end

section
/-! No instruction stops a machine whose SP is in 0..15: O44. -/

namespace Sys2Proof.Machine

/-- R26: `00EE` with SP above 15 is the one stop of Execute. -/
theorem exec_next_of_sp_le (i : Instr) {s : State} (hsp : s.sp.toNat ≤ 15) : ∃ t, exec i s = .next t := by
  cases i with
  | ret =>
    show ∃ t, execRet s = .next t
    unfold execRet
    rw [stackAt_some s (Nat.lt_succ_of_le hsp)]
    split <;> exact ⟨_, rfl⟩
  | call nnn =>
    show ∃ t, execCall nnn s = .next t
    unfold execCall
    split <;> exact ⟨_, rfl⟩
  | skp x | sknp x =>
    obtain ⟨_, -, h⟩ | ⟨-, h⟩ := keySkip_cases _ x (encode _) s
    · exact ⟨_, h⟩
    · exact ⟨_, h⟩
  | ldVxK x =>
    show ∃ t, execLdVxK x s = .next t
    unfold execLdVxK
    split <;> exact ⟨_, rfl⟩
  | unknown op =>
    show ∃ t, execUnknown op s = .next t
    unfold execUnknown
    split <;> exact ⟨_, rfl⟩
  | _ => exact ⟨_, rfl⟩

/-- Settles O44: a ready step is a fetch fault or the Execute of what it fetched. -/
theorem noInstructionStopsAReachableMachine : Obligations.NoInstructionStopsAReachableMachine := by
  refine ⟨fun i s h => exec_next_of_sp_le i h.sp_le, fun s ms h ready => ?_⟩
  rw [step_of_running ready.running ready.no_turn ready.elapsed ready.nonneg]
  cases hf : fetch s with
  | error k => exact ⟨_, fetchExecute_error ms hf⟩
  | ok op =>
    obtain ⟨t, ht⟩ := exec_next_of_sp_le (decode op) h.sp_le
    exact ⟨_, by rw [fetchExecute_ok ms hf, ht]; rfl⟩

end Sys2Proof.Machine
end

section
/-! No program observes the sound timer (O58): every part of a step takes two states that differ in ST, STA and the
speaker flag only to two such states. -/

namespace Sys2Proof.Machine

/-- The state with another sound timer and speaker flag (R28, R36). -/
def State.withSound (s : State) (b : Byte) (q : Rat) (f : Bool) : State :=
  { s with st := b, sta := q, beepPending := f }

/-- The two states agree in everything but ST, STA and the speaker flag. -/
def SoundAlike (s u : State) : Prop := ∃ b q f, u = s.withSound b q f

theorem SoundAlike.eq {s u : State} (h : SoundAlike s u) :
    u = { s with st := u.st, sta := u.sta, beepPending := u.beepPending } := by
  obtain ⟨b, q, f, rfl⟩ := h
  rfl

section
variable (s : State) (b : Byte) (q : Rat) (f : Bool)

@[simp] theorem State.withSound_cfg : (s.withSound b q f).cfg = s.cfg := rfl
@[simp] theorem State.withSound_sp : (s.withSound b q f).sp = s.sp := rfl
@[simp] theorem State.withSound_status : (s.withSound b q f).status = s.status := rfl
@[simp] theorem State.withSound_hostTurns : (s.withSound b q f).hostTurns = s.hostTurns := rfl
@[simp] theorem State.stackAt_withSound (k : Nat) : (s.withSound b q f).stackAt k = s.stackAt k := rfl
@[simp] theorem State.readV_withSound (r : Reg) : (s.withSound b q f).readV r = s.readV r := rfl
@[simp] theorem State.firstKeyDown_withSound : (s.withSound b q f).firstKeyDown = s.firstKeyDown := rfl
@[simp] theorem fetch_withSound : fetch (s.withSound b q f) = fetch s := rfl

end

section
variable {s t : State} {b : Byte} {q : Rat} {f : Bool}

/-! ## Execute -/

/-- An effect that is alike stays alike behind the range check, which reads I and the configuration. -/
theorem withRange_withSound {len : Nat} {op : Word} {e e' : State} (he : SoundAlike e e')
    (h : withRange len op s e = .next t) :
    ∃ u, withRange len op (s.withSound b q f) e' = .next u ∧ SoundAlike t u := by
  rcases withRange_cases h with ⟨hr, rfl⟩ | ⟨hr, rfl⟩
  · exact ⟨e', withRange_ok (s := s.withSound b q f) hr, he⟩
  · exact ⟨_, withRange_bad (s := s.withSound b q f) hr, b, q, f, rfl⟩

theorem keySkip_withSound {wanted : Bool} {x : Reg} {op : Word} (h : keySkip wanted x op s = .next t) :
    keySkip wanted x op (s.withSound b q f) = .next (t.withSound b q f) := by
  unfold keySkip at h ⊢
  rw [State.readV_withSound]
  split at h <;> cases h <;> rfl

theorem execRet_withSound (h : execRet s = .next t) :
    execRet (s.withSound b q f) = .next (t.withSound b q f) := by
  unfold execRet at h ⊢
  rw [State.withSound_sp, State.stackAt_withSound]
  split at h
  · rw [if_pos ‹_›]
    cases h
    rfl
  · rw [if_neg ‹_›]
    split at h <;> cases h
    rfl

theorem execCall_withSound {nnn : Addr12} (h : execCall nnn s = .next t) :
    execCall nnn (s.withSound b q f) = .next (t.withSound b q f) := by
  unfold execCall at h ⊢
  rw [State.withSound_sp]
  split at h
  · rw [if_pos ‹_›]
    cases h
    rfl
  · rw [if_neg ‹_›]
    cases h
    rfl

theorem execLdVxK_withSound {x : Reg} (h : execLdVxK x s = .next t) :
    execLdVxK x (s.withSound b q f) = .next (t.withSound b q f) := by
  unfold execLdVxK at h ⊢
  rw [State.firstKeyDown_withSound]
  split at h <;> cases h <;> rfl

theorem execUnknown_withSound {op : Word} (h : execUnknown op s = .next t) :
    execUnknown op (s.withSound b q f) = .next (t.withSound b q f) := by
  unfold execUnknown at h ⊢
  rw [State.withSound_cfg]
  split at h <;> cases h <;> rfl

/-- R41: no instruction reads ST, STA or the speaker flag. -/
theorem exec_withSound {i : Instr} (h : exec i s = .next t) :
    ∃ u, exec i (s.withSound b q f) = .next u ∧ SoundAlike t u := by
  cases i with
  | ret => exact ⟨_, execRet_withSound h, b, q, f, rfl⟩
  | call nnn => exact ⟨_, execCall_withSound h, b, q, f, rfl⟩
  | skp x | sknp x => exact ⟨_, keySkip_withSound h, b, q, f, rfl⟩
  | ldVxK x => exact ⟨_, execLdVxK_withSound h, b, q, f, rfl⟩
  | unknown op => exact ⟨_, execUnknown_withSound h, b, q, f, rfl⟩
  | drw x y n => exact withRange_withSound (e' := drawEffect x y n (s.withSound b q f)) ⟨b, q, f, rfl⟩ h
  | ldB x => exact withRange_withSound (e' := bcdEffect x (s.withSound b q f)) ⟨b, q, f, rfl⟩ h
  | storeRegs x => exact withRange_withSound (e' := dumpEffect x (s.withSound b q f)) ⟨b, q, f, rfl⟩ h
  | loadRegs x => exact withRange_withSound (e' := loadEffect x (s.withSound b q f)) ⟨b, q, f, rfl⟩ h
  | _ => cases h; exact ⟨_, rfl, _, _, _, rfl⟩

/-! ## The phases around Execute -/

theorem loadRom_withSound {rom : List Byte} (h : loadRom rom s = .ok t) :
    loadRom rom (s.withSound b q f) = .ok (t.withSound b q f) := by
  unfold loadRom at h ⊢
  rw [State.withSound_cfg]
  split at h
  · cases h
  · rw [if_neg ‹_›]
    split at h
    · cases h
    · rw [if_neg ‹_›]
      cases h
      rfl

theorem loadIfAsked_withSound {rom : Option (List Byte)} (h : loadIfAsked rom s = .ok t) :
    loadIfAsked rom (s.withSound b q f) = .ok (t.withSound b q f) := by
  cases rom with
  | none => cases h; rfl
  | some bytes => exact loadRom_withSound h

/-- R245: a turn reads none of the three; its flush writes the flag. -/
theorem applyTurn_withSound {turn : HostTurn} (h : applyTurn turn s = .ok t) :
    ∃ u, applyTurn turn (s.withSound b q f) = .ok u ∧ SoundAlike t u := by
  unfold applyTurn at h ⊢
  cases hload : loadIfAsked turn.rom s with
  | error e => rw [hload] at h; cases h
  | ok r =>
    rw [hload] at h
    rw [loadIfAsked_withSound hload]
    cases h
    exact ⟨(r.withSound b q f).hostSettings turn, rfl, b, q, _, rfl⟩

theorem hostTurn_withSound (h : hostTurn s = .ok t) :
    ∃ u, hostTurn (s.withSound b q f) = .ok u ∧ SoundAlike t u := by
  unfold hostTurn at h ⊢
  rw [State.withSound_hostTurns]
  split at h
  · cases h
    exact ⟨_, rfl, b, q, f, rfl⟩
  · exact applyTurn_withSound h

/-- R215, R216: the timer phase computes the new sound timer and the beep, and nothing else, from the old sound timer. -/
theorem endOfStep_withSound (ms : Rat) (t : State) (b : Byte) (q : Rat) (f : Bool) :
    SoundAlike (endOfStep ms t) (endOfStep ms (t.withSound b q f)) := by
  unfold endOfStep
  rw [State.withSound_status]
  split
  · exact ⟨b, q, f, rfl⟩
  · exact ⟨_, _, _, rfl⟩
  · exact ⟨_, _, _, rfl⟩

/-- R91: what a step does after the host's turn, in a running engine with a valid elapsed time (R100). -/
theorem step_of_hostTurn {ms : Rat} {s' : State} (hs : ∀ r, s.status ≠ .faulted r) (ht : hostTurn s = .ok s')
    (hrun : s'.status = .running) (he : s'.elapsed = .finite ms) (hms : 0 ≤ ms) :
    step s = fetchExecute exec ms s' := by
  have hengine : engineStep exec s' = fetchExecute exec ms s' := by
    simp [engineStep, hrun, he, not_lt.mpr hms]
  unfold step cycle
  rw [ht]
  split
  · exact absurd ‹_› (hs _)
  · exact hengine
  · exact hengine

/-- R41: every part of a step keeps two states alike. -/
theorem step_withSound (h : step s = .next t) : ∃ u, step (s.withSound b q f) = .next u ∧ SoundAlike t u := by
  obtain ⟨s', ms, hs, hturn, hrun, he, hms, hstep⟩ := step_cases h
  obtain ⟨_, hturn', b', q', f', rfl⟩ := hostTurn_withSound (b := b) (q := q) (f := f) hturn
  rw [step_of_hostTurn (s := s.withSound b q f) hs hturn' hrun he hms]
  rcases hstep with ⟨k, hk, rfl⟩ | ⟨op, w, hop, hx, rfl⟩
  · exact ⟨_, fetchExecute_error ms hk, b', q', f', rfl⟩
  · obtain ⟨_, hx', b'', q'', f'', rfl⟩ := exec_withSound (b := b') (q := q') (f := f') hx
    have hfetch := (fetch_withSound s' b' q' f').trans hop
    exact ⟨_, by rw [fetchExecute_ok ms hfetch, hx']; rfl, endOfStep_withSound ms w b'' q'' f''⟩

end

/-- Settles O58, by `step_withSound`. -/
theorem soundTimerIsInvisibleToTheProgram : Obligations.SoundTimerIsInvisibleToTheProgram := by
  intro s t b q f h
  obtain ⟨u, hu, halike⟩ := step_withSound (b := b) (q := q) (f := f) h
  exact ⟨u, hu, halike.eq⟩

end Sys2Proof.Machine
end

section
/-! Who stores to memory (O46), and that a fetch composes the bytes a dump stored (O36). -/

namespace Sys2Proof.Machine

/-- R64: of all the changes Execute makes, `digits` and `dump` alone write memory. -/
theorem Change.mem_eq {i : Instr} {s t : State} (c : Change s i t) (h : i.stores = false) : t.mem = s.mem := by
  cases c with
  | digits x _ => cases h
  | dump x _ => cases h
  | _ => rfl

theorem sameBytes_of_mem_eq {s t : State} (h : t.mem = s.mem) : SameBytes s t :=
  fun a => congrArg (Memory.read · a) h

/-- Settles O46, through `exec_change`. -/
theorem onlyTwoInstructionsStore : Obligations.OnlyTwoInstructionsStore := fun _ _ _ h hstores =>
  have hmem := (exec_change h).mem_eq hstores
  ⟨hmem, sameBytes_of_mem_eq hmem⟩

/-- R184, R205: a dump whose highest byte lies in Memory happens. -/
theorem exec_storeRegs_of_lt {x : Reg} {s : State} (h : s.i.toNat + x.val < s.cfg.memSize) :
    exec (.storeRegs x) s = .next (dumpEffect x s) :=
  withRange_ok ((rangeOk_iff s (x.val + 1)).mpr (.inr h))

/-- R184: register `r` of a dump stands `r` bytes above I. -/
theorem byteAt_dumpEffect {x r : Reg} {s : State} (hw : Memory.wf s.mem = true) (hr : r.val ≤ x.val) :
    (dumpEffect x s).byteAt (s.i.toNat + r.val) = s.readV r := by
  have hlen : r.val < (dumpBytes x s).length := by
    rw [length_dumpBytes]
    exact Nat.lt_succ_of_le hr
  calc (dumpEffect x s).byteAt (s.i.toNat + r.val)
      = (dumpBytes x s)[r.val] := Memory.read_writeBytes_inside hw s.i.toNat (dumpBytes x s) hlen
    _ = s.readV r := getElem_dumpBytes x r s hlen

/-- Settles O36: both bytes of the fetch are bytes of the dump, and `bigEndian` composes them. -/
theorem fetchSeesTheBytesADumpStored : Obligations.FetchSeesTheBytesADumpStored := by
  intro x r q s hrange hw hq hqx
  refine ⟨dumpEffect x s, exec_storeRegs_of_lt hrange, fun u hmem hcfg hpc heven => ?_⟩
  have hbytes : SameBytes (dumpEffect x s) u := sameBytes_of_mem_eq hmem
  have hhigh : u.byteAt u.pc.toNat = s.readV r := by
    rw [hbytes, hpc, byteAt_dumpEffect hw (by omega)]
  have hlow : u.byteAt (u.pc.toNat + 1) = s.readV q := by
    rw [hbytes, hpc, Nat.add_assoc, ← hq, byteAt_dumpEffect hw hqx]
  have hin : u.pc.toNat + 1 < u.cfg.memSize := by
    rw [hcfg]
    omega
  refine ⟨_, fetch_ok heven hin, ?_⟩
  rw [hhigh, hlow, bigEndian_toNat]

end Sys2Proof.Machine
end

section
/-! The layout of memory that a successful `load_rom` leaves: O54. -/

namespace Sys2Proof.Machine

/-- R242: `load_rom` accepts every ROM of two bytes up to the room. -/
theorem loadRom_of_fits {rom : List Byte} {s : State} (h2 : 2 ≤ rom.length)
    (hroom : rom.length ≤ romRoom s.cfg) :
    loadRom rom s = .ok { s with mem := loadedMemory s.cfg rom, pc := BitVec.ofNat 16 s.cfg.programAddress,
                                 status := .running } := by
  unfold loadRom
  rw [if_neg (Nat.not_lt.mpr h2), if_neg (Nat.not_lt.mpr hroom)]

section
variable {c : Cfg} (hc : c.Valid) (rom : List Byte)

include hc

/-- R56: a legal font has 80 bytes, so `load_rom` places all of it. -/
theorem loadedMemory_eq :
    loadedMemory c rom = Memory.writeBytes (Memory.writeBytes Memory.clear 0 c.fontTable) c.programAddress rom := by
  unfold loadedMemory
  rw [← hc.font_length, List.take_length]

theorem read_loadedMemory_rom {k : Nat} (h : k < rom.length) :
    Memory.read (loadedMemory c rom) (c.programAddress + k) = rom[k] := by
  rw [loadedMemory_eq hc, Memory.read_writeBytes_inside (Memory.wf_writeBytes rfl _ _) _ _ h]

/-- The ROM lies above the font and leaves it alone. -/
theorem read_loadedMemory_font {k : Nat} (h : k < c.fontTable.length) :
    Memory.read (loadedMemory c rom) k = c.fontTable[k] := by
  have hbelow : k < c.programAddress := Nat.lt_of_lt_of_le (hc.font_length ▸ h) hc.program_above_font
  have hfont := Memory.read_writeBytes_inside (m := Memory.clear) rfl 0 c.fontTable h
  rw [loadedMemory_eq hc, Memory.read_writeBytes_outside _ _ _ (.inl hbelow)]
  rwa [Nat.zero_add] at hfont

/-- R51: what neither the font nor the ROM covers is as `clear()` left it. -/
theorem read_loadedMemory_zero {a : Nat} (hfont : 80 ≤ a)
    (hrom : a < c.programAddress ∨ c.programAddress + rom.length ≤ a) :
    Memory.read (loadedMemory c rom) a = 0 := by
  have habove : 0 + c.fontTable.length ≤ a := by
    rw [hc.font_length, Nat.zero_add]
    exact hfont
  rw [loadedMemory_eq hc, Memory.read_writeBytes_outside _ _ _ hrom,
    Memory.read_writeBytes_outside _ _ _ (.inr habove)]
  rfl

end

/-- R242: a legal program address is a 16-bit number. -/
theorem programAddress_toNat {c : Cfg} (hc : c.Valid) :
    (BitVec.ofNat 16 c.programAddress).toNat = c.programAddress := by
  have hlt : c.programAddress < 2 ^ 16 := by
    have hmem := hc.memSize_le
    have hfits := hc.program_fits
    omega
  rw [BitVec.toNat_ofNat, Nat.mod_eq_of_lt hlt]

/-- Settles O54: one clause per part of memory, each a fact about `loadedMemory`. -/
theorem loadRomLaysOutMemoryAndResetsPc : Obligations.LoadRomLaysOutMemoryAndResetsPc := by
  intro rom s hc h2 hroom
  have habove : 80 ≤ s.cfg.programAddress := hc.program_above_font
  exact ⟨_, loadRom_of_fits h2 hroom, fun _ => read_loadedMemory_font hc rom, fun _ => read_loadedMemory_rom hc rom,
    fun _ hfont ha => read_loadedMemory_zero hc rom hfont (.inl ha),
    fun _ ha => read_loadedMemory_zero hc rom (habove.trans (Nat.le_of_add_right_le ha)) (.inr ha),
    programAddress_toNat hc, rfl, rfl⟩

end Sys2Proof.Machine
end

section
/-! The encoder after the decoder: a word is composed of its own fields again (R71, R72). -/

namespace Sys2Proof

theorem toNat_div_of_nibble1 {op : Word} {c : Nat} (h : nibble1 op = BitVec.ofNat 4 c) (hc : c < 16) :
    op.toNat / 4096 = c := by
  rw [← nibble1_toNat, h, BitVec.toNat_ofNat, Nat.mod_eq_of_lt hc]

theorem encodeNNN_fields {op : Word} {c : Nat} (h : nibble1 op = BitVec.ofNat 4 c) (hc : c < 16 := by decide) :
    encodeNNN c (fieldNNN op) = op := by
  have hfamily := toNat_div_of_nibble1 h hc
  apply BitVec.eq_of_toNat_eq
  rw [encodeNNN_toNat hc, fieldNNN_toNat]
  omega

theorem encodeXKK_fields {op : Word} {c : Nat} (h : nibble1 op = BitVec.ofNat 4 c) (hc : c < 16 := by decide) :
    encodeXKK c (fieldX op) (fieldKK op) = op := by
  have hfamily := toNat_div_of_nibble1 h hc
  apply BitVec.eq_of_toNat_eq
  rw [encodeXKK_toNat hc, fieldX_val, fieldKK_toNat]
  omega

theorem encodeXYN_fields {op : Word} {c : Nat} (h : nibble1 op = BitVec.ofNat 4 c) (hc : c < 16 := by decide) :
    encodeXYN c (fieldX op) (fieldY op) (fieldN op) = op := by
  have hfamily := toNat_div_of_nibble1 h hc
  apply BitVec.eq_of_toNat_eq
  rw [encodeXYN_toNat hc, fieldX_val, fieldY_val, fieldN_val]
  omega

/-- Format X of R72: the low byte is the constant the family keys on. -/
theorem encodeX_fields {op : Word} {c : Nat} {kk : Byte} (h : nibble1 op = BitVec.ofNat 4 c) (hkk : fieldKK op = kk)
    (hc : c < 16 := by decide) : encodeXKK c (fieldX op) kk = op := by
  rw [← hkk, encodeXKK_fields h hc]

/-- Format XY of R72: the last nibble is the constant the family keys on. -/
theorem encodeXY_fields {op : Word} {c : Nat} {n : Fin 16} (h : nibble1 op = BitVec.ofNat 4 c)
    (hn : nibble4 op = BitVec.ofFin n) (hc : c < 16 := by decide) :
    encodeXYN c (fieldX op) (fieldY op) n = op := by
  have hfield : fieldN op = n := congrArg BitVec.toFin hn
  rw [← hfield, encodeXYN_fields h hc]

theorem encode_decodeFamily8 {op : Word} (h : nibble1 op = 0x8) : encode (decodeFamily8 op) = op := by
  unfold decodeFamily8
  split
  case h_10 => rfl
  all_goals exact encodeXY_fields h (by assumption)

theorem encode_decodeFamilyF {op : Word} (h : nibble1 op = 0xF) : encode (decodeFamilyF op) = op := by
  unfold decodeFamilyF
  split
  case h_10 => rfl
  all_goals exact encodeX_fields h (by assumption)

theorem encode_decode (op : Word) : encode (decode op) = op := by
  unfold decode
  split
  case h_1 =>
    split_ifs with hcls hret
    · exact hcls.symm
    · exact hret.symm
    · rfl
  case h_2 h | h_3 h | h_11 h | h_12 h => exact encodeNNN_fields h
  case h_4 h | h_5 h | h_7 h | h_8 h | h_13 h => exact encodeXKK_fields h
  case h_6 h | h_10 h =>
    split_ifs with hn
    · exact encodeXY_fields h hn
    · rfl
  case h_9 h => exact encode_decodeFamily8 h
  case h_14 h => exact encodeXYN_fields h
  case h_15 h =>
    split_ifs with hskp hsknp
    · exact encodeX_fields h hskp
    · exact encodeX_fields h hsknp
    · rfl
  case h_16 h => exact encode_decodeFamilyF h
  case h_17 => rfl

/-! The one row of R75 that covers a word is the row of the instruction it decodes to: the bits the decoder keys on are
the same within a family (R74), and they are the mask of every row of the family. -/

/-- The bits of a word that the decoder keys on, by the word's first nibble. -/
def familyMask (family : Nibble) : Word :=
  if family = 0x0 then 0xFFFF
  else if family = 0x5 ∨ family = 0x8 ∨ family = 0x9 then 0xF00F
  else if family = 0xE ∨ family = 0xF then 0xF0FF
  else 0xF000

theorem nibble1_and_of_ones {m : Word} (op : Word) (hm : nibble1 m = 0xF) : nibble1 (op &&& m) = nibble1 op := by
  rw [nibble1, BitVec.extractLsb'_and, ← nibble1, ← nibble1, hm]
  exact BitVec.and_allOnes

theorem nibble4_and_of_ones {m : Word} (op : Word) (hm : nibble4 m = 0xF) : nibble4 (op &&& m) = nibble4 op := by
  rw [nibble4, BitVec.extractLsb'_and, ← nibble4, ← nibble4, hm]
  exact BitVec.and_allOnes

theorem fieldKK_and_of_ones {m : Word} (op : Word) (hm : fieldKK m = 0xFF) : fieldKK (op &&& m) = fieldKK op := by
  rw [fieldKK, BitVec.extractLsb'_and, ← fieldKK, ← fieldKK, hm]
  exact BitVec.and_allOnes

theorem row_decodeFamily8_congr {op w : Word} (h : nibble4 op = nibble4 w) :
    (decodeFamily8 op).row = (decodeFamily8 w).row := by
  unfold decodeFamily8
  rw [h]
  split <;> rfl

theorem row_decodeFamilyF_congr {op w : Word} (h : fieldKK op = fieldKK w) :
    (decodeFamilyF op).row = (decodeFamilyF w).row := by
  unfold decodeFamilyF
  rw [h]
  split <;> rfl

/-- The row of a word depends on no bit outside its family's mask. -/
theorem row_decode_and_familyMask (op : Word) :
    (decode (op &&& familyMask (nibble1 op))).row = (decode op).row := by
  have hones : ∀ family, nibble1 (familyMask family) = 0xF := by decide
  unfold decode
  rw [nibble1_and_of_ones op (hones _)]
  split <;> rename_i h
  case h_1 =>
    have hall : op &&& familyMask (nibble1 op) = op := by
      rw [h]
      exact BitVec.and_allOnes
    rw [hall]
  case h_6 | h_10 =>
    rw [h, nibble4_and_of_ones op (by decide)]
    split_ifs <;> rfl
  case h_9 =>
    rw [h]
    exact row_decodeFamily8_congr (nibble4_and_of_ones op (by decide))
  case h_15 =>
    rw [h, fieldKK_and_of_ones op (by decide)]
    split_ifs <;> rfl
  case h_16 =>
    rw [h]
    exact row_decodeFamilyF_congr (fieldKK_and_of_ones op (by decide))
  all_goals rfl

/-- R75: each row masks what its family keys on, and its match is a word of that row. -/
theorem instructionRows_spec : ∀ r ∈ instructionRows,
    nibble1 r.mask = 0xF ∧ r.mask = familyMask (nibble1 r.value) ∧ (decode r.value).row = r := by decide

theorem row_decode_of_covers {r : OpcodeRow} {op : Word} (hr : r ∈ instructionRows) (h : r.covers op = true) :
    (decode op).row = r := by
  obtain ⟨hones, hmask, hrow⟩ := instructionRows_spec r hr
  have hvalue : op &&& r.mask = r.value := beq_iff_eq.mp h
  have hfamily : nibble1 r.value = nibble1 op := by rw [← hvalue, nibble1_and_of_ones op hones]
  rw [← row_decode_and_familyMask, ← hfamily, ← hmask, hvalue, hrow]

open Laws.RowFit in
/-- The laws of `Laws.RowFit`, one per constructor, for any instruction. -/
theorem rowFit : ∀ i : Instr, Statement i
  | .cls => cls | .ret => ret | .jp nnn => jp nnn | .call nnn => call nnn
  | .seImm x kk => seImm x kk | .sneImm x kk => sneImm x kk | .seReg x y => seReg x y
  | .ldImm x kk => ldImm x kk | .addImm x kk => addImm x kk | .ldReg x y => ldReg x y
  | .orReg x y => orReg x y | .andReg x y => andReg x y | .xorReg x y => xorReg x y
  | .addReg x y => addReg x y | .subReg x y => subReg x y | .shr x y => shr x y
  | .subn x y => subn x y | .shl x y => shl x y | .sneReg x y => sneReg x y
  | .ldI nnn => ldI nnn | .jpV0 nnn => jpV0 nnn | .rnd x kk => rnd x kk | .drw x y n => drw x y n
  | .skp x => skp x | .sknp x => sknp x | .ldVxDt x => ldVxDt x | .ldVxK x => ldVxK x
  | .ldDtVx x => ldDtVx x | .ldStVx x => ldStVx x | .addI x => addI x | .ldF x => ldF x
  | .ldB x => ldB x | .storeRegs x => storeRegs x | .loadRegs x => loadRegs x
  | .unknown op => unknown op

/-- R76, R82: a well-formed `unknown` holds a word that no row covers. -/
theorem wf_unknown_iff (op : Word) :
    (Instr.unknown op).wf = true ↔ ∀ r ∈ instructionRows, r.covers op = false := by
  simp [Instr.wf, isInstructionWord]

theorem row_unknown_not_mem (op : Word) : (Instr.unknown op).row ∉ instructionRows := by
  rw [Instr.row]
  decide

/-- The word of a decoded `unknown` is the decoded word, and a row that covered it would be the default row. -/
theorem wf_decode (op : Word) : (decode op).wf = true := by
  cases h : decode op with
  | unknown w =>
    have hword : w = op := by simpa only [h, encode] using encode_decode op
    subst hword
    refine (wf_unknown_iff w).mpr fun r hr => Bool.eq_false_iff.mpr fun hcovers => row_unknown_not_mem w ?_
    rwa [← h, row_decode_of_covers hr hcovers]
  | _ => rfl

/-- R76: the instruction's row covers its word, so it is no row of R75, and only `unknown` stands in none of those. -/
theorem decode_eq_unknown_of_not_covered {op : Word} (h : ∀ r ∈ instructionRows, r.covers op = false) :
    decode op = .unknown op := by
  obtain ⟨hcovers, hmem | hunknown⟩ := rowFit (decode op) (wf_decode op)
  · rw [encode_decode, h _ hmem] at hcovers
    cases hcovers
  · rwa [encode_decode] at hunknown

/-- Settles O3, by the branches of the decoder for the word and by the rows for well-formedness. -/
theorem encodeOfDecodeIsTheWord : Obligations.EncodeOfDecodeIsTheWord := fun op => ⟨wf_decode op, encode_decode op⟩

/-- Settles O4. -/
theorem maskAndMatchSelectTheInstruction : Obligations.MaskAndMatchSelectTheInstruction :=
  fun _ => ⟨fun _ => row_decode_of_covers, decode_eq_unknown_of_not_covered⟩

end Sys2Proof
end

section
/-! The decoder after the encoder, by the formats of R72, and the two bytes an instruction is stored as. -/

namespace Sys2Proof

theorem decode_encode {i : Instr} (hwf : i.wf = true) : decode (encode i) = i := by
  cases i with
  | cls | ret => rfl
  | jp nnn | call nnn | ldI nnn | jpV0 nnn =>
    simp [encode, decode, nibble1_encodeNNN, fieldNNN_encodeNNN]
  | seImm x kk | sneImm x kk | ldImm x kk | addImm x kk | rnd x kk =>
    simp [encode, decode, nibble1_encodeXKK, fieldX_encodeXKK, fieldKK_encodeXKK]
  | seReg x y | sneReg x y =>
    simp [encode, decode, nibble1_encodeXYN, nibble4_encodeXYN, fieldX_encodeXYN, fieldY_encodeXYN]
  | ldReg x y | orReg x y | andReg x y | xorReg x y | addReg x y | subReg x y | shr x y | subn x y | shl x y =>
    simp [encode, decode, decodeFamily8, nibble1_encodeXYN, nibble4_encodeXYN, fieldX_encodeXYN, fieldY_encodeXYN]
  | drw x y n =>
    simp [encode, decode, nibble1_encodeXYN, fieldX_encodeXYN, fieldY_encodeXYN, fieldN_encodeXYN]
  | skp x | sknp x =>
    simp [encode, decode, nibble1_encodeXKK, fieldX_encodeXKK, fieldKK_encodeXKK]
  | ldVxDt x | ldVxK x | ldDtVx x | ldStVx x | addI x | ldF x | ldB x | storeRegs x | loadRegs x =>
    simp [encode, decode, decodeFamilyF, nibble1_encodeXKK, fieldX_encodeXKK, fieldKK_encodeXKK]
  | unknown op => exact decode_eq_unknown_of_not_covered ((wf_unknown_iff op).mp hwf)

/-- Settles O2, by the formats of R72; an unknown word is one that no row covers. -/
theorem decodeOfEncodeIsTheInstruction : Obligations.DecodeOfEncodeIsTheInstruction := fun _ => decode_encode

theorem decodeBytes_encodeBytes {i : Instr} (hwf : i.wf = true) (rest : List Byte) :
    decodeBytes (encodeBytes i ++ rest) = .ok (i, rest) := by
  rw [encodeBytes, List.cons_append, List.cons_append, List.nil_append, decodeBytes_cons, bigEndian_bytes,
    decode_encode hwf]

/-- Settles O5. -/
theorem instructionIsTwoBytesHighByteFirst : Obligations.InstructionIsTwoBytesHighByteFirst :=
  fun i rest hwf => ⟨highByte (encode i), lowByte (encode i), rfl, highByte_toNat _, lowByte_toNat _,
    decodeBytes_encodeBytes hwf rest⟩

/-- Settles O1, by running the decoder on the words. -/
theorem writtenOutWordsDecode : Obligations.WrittenOutWordsDecode := by
  unfold Obligations.WrittenOutWordsDecode
  decide

end Sys2Proof
end

section
/-! The step cycle around Execute: where no step exists (O40), the fetch and its two faults (O39), the instruction a
step runs (O38), and what a step that ends in a fault has done (O42). -/

namespace Sys2Proof.Machine

section
variable {s t : State} {ms : Rat}

/-! ## Where no step exists -/

/-- R211: `Faulted` is permanent; no turn of the host is taken there. -/
theorem step_of_faulted {r : FaultRecord} (hs : s.status = .faulted r) : step s = .fault (.engineFaulted r) := by
  unfold step cycle
  rw [hs]

theorem hostTurn_of_no_turn (ht : s.hostTurns = []) : hostTurn s = .ok s := by
  unfold hostTurn
  rw [ht]

theorem step_of_no_turn (hs : ∀ r, s.status ≠ .faulted r) (ht : s.hostTurns = []) : step s = engineStep exec s := by
  unfold step cycle
  rw [hostTurn_of_no_turn ht]
  split
  · exact absurd ‹_› (hs _)
  · rfl
  · rfl

/-! The refusals of R100. -/

theorem step_of_unloaded (ht : s.hostTurns = []) (hs : s.status = .unloaded) : step s = .refused .notLoaded := by
  rw [step_of_no_turn (by simp [hs]) ht]
  simp [engineStep, hs]

theorem step_of_nonFinite (ht : s.hostTurns = []) (hs : s.status = .running) (he : s.elapsed = .nonFinite) :
    step s = .refused .badElapsed := by
  rw [step_of_no_turn (by simp [hs]) ht]
  simp [engineStep, hs, he]

theorem step_of_negative (ht : s.hostTurns = []) (hs : s.status = .running) (he : s.elapsed = .finite ms)
    (hms : ms < 0) : step s = .refused .badElapsed := by
  rw [step_of_no_turn (by simp [hs]) ht]
  simp [engineStep, hs, he, hms]

/-! ## The fetch -/

theorem State.Ready.step_eq (h : s.Ready ms) : step s = fetchExecute exec ms s :=
  step_of_running h.running h.no_turn h.elapsed h.nonneg

theorem State.Ready.not_isFaulted (h : s.Ready ms) : ¬ s.isFaulted :=
  fun ⟨_, hr⟩ => nomatch h.running.symm.trans hr

theorem State.Ready.step_of_fetch_error {k : FaultKind} (h : s.Ready ms) (hf : fetch s = .error k) :
    step s = .next (raise k none s) :=
  h.step_eq.trans (fetchExecute_error ms hf)

/-- R92: the fetch composes the two bytes that stand at PC. -/
theorem State.Holds.fetch_eq {op : Word} (h : s.Holds op) : fetch s = .ok op := by
  have hword : bigEndian (s.byteAt s.pc.toNat) (s.byteAt (s.pc.toNat + 1)) = op := by
    apply BitVec.eq_of_toNat_eq
    rw [bigEndian_toNat, h.high, h.low]
    exact Nat.div_add_mod' op.toNat 256
  rw [fetch_ok h.even h.in_memory, hword]

/-! ## The instruction a step runs -/

/-- R91, R93: the step decodes the word back to the instruction it encodes. -/
theorem State.Ready.step_of_holds {i : Instr} (h : s.Ready ms) (hwf : i.wf = true) (hi : s.Holds (encode i)) :
    step s = afterExecute ms (exec i s) := by
  rw [h.step_eq, fetchExecute_ok ms hi.fetch_eq, decode_encode hwf]

/-- R97: after an instruction that takes no fault the timer phase runs. -/
theorem State.Ready.step_of_exec {i : Instr} (h : s.Ready ms) (hwf : i.wf = true) (hi : s.Holds (encode i))
    (hx : exec i s = .next t) (hf : ¬ t.isFaulted) : step s = .next (timerPhase ms t) := by
  rw [h.step_of_holds hwf hi, hx, afterExecute, endOfStep_running ms fun r hr => hf ⟨r, hr⟩]

/-- R94: no arm of Execute refuses; the instructions named here are those that take a branch. -/
theorem exec_ne_refused (i : Instr) (s : State) (r : Refusal) : exec i s ≠ .refused r := by
  cases i with
  | ret =>
    simp only [exec, execRet]
    split
    · nofun
    · split <;> nofun
  | call _ | skp _ | sknp _ | ldVxK _ | unknown _ =>
    simp only [exec, execCall, execSkp, execSknp, keySkip, execLdVxK, execUnknown]
    split <;> nofun
  | _ => nofun

/-! ## A step that ends in a fault -/

/-- R99, R209: from a state that is not faulted, an instruction reaches a faulted state only by its own fault. -/
theorem Change.eq_raise_of_isFaulted {i : Instr} (c : Change s i t) (hs : s.status = .running) (ht : t.isFaulted) :
    ∃ k, i.mayRaise k ∧ t = raise k (some (encode i)) s := by
  obtain ⟨r, hr⟩ := ht
  cases c with
  | fault hk => exact ⟨_, hk, rfl⟩
  | _ => exact nomatch hs.symm.trans hr

/-- R97: the timer phase keeps the status, so the fault was there before it and kept it from running. -/
theorem isFaulted_of_endOfStep (h : (endOfStep ms t).isFaulted) : t.isFaulted := by
  by_contra hf
  rw [endOfStep_running ms fun r hr => hf ⟨r, hr⟩] at h
  exact hf h

/-- R99, R210: the fault of the fetch has no opcode, the fault of an instruction has the one that was fetched. -/
theorem State.Ready.eq_raise_of_isFaulted (h : s.Ready ms) (hstep : step s = .next t) (ht : t.isFaulted) :
    (∃ k, fetch s = .error k ∧ t = raise k none s) ∨ ∃ k op, fetch s = .ok op ∧ t = raise k (some op) s := by
  obtain ⟨s', ms', -, hturn, -, -, -, hcases⟩ := step_cases hstep
  obtain rfl : s = s' := by simpa [hostTurn_of_no_turn h.no_turn] using hturn
  rcases hcases with hfetch | ⟨op, u, hop, hx, rfl⟩
  · exact .inl hfetch
  · obtain ⟨k, -, rfl⟩ := (exec_change hx).eq_raise_of_isFaulted h.running (isFaulted_of_endOfStep ht)
    exact .inr ⟨k, op, hop, by rw [endOfStep_faulted ms' rfl, encode_decode]⟩

end

/-- Settles O40. -/
theorem stepStopsOutsideItsPreconditions : Obligations.StepStopsOutsideItsPreconditions :=
  fun _ => ⟨step_of_unloaded, step_of_nonFinite, fun _ => step_of_negative, fun _ hs _ => run_fault (step_of_faulted hs)⟩

/-- Settles O39: alignment is checked first. -/
theorem fetchFaultsAtOddOrOutsidePc : Obligations.FetchFaultsAtOddOrOutsidePc := fun _ _ h =>
  ⟨fun hodd => ⟨_, h.step_of_fetch_error (fetch_misaligned hodd), rfl⟩,
    fun heven hout => ⟨_, h.step_of_fetch_error (fetch_outOfRange heven hout), rfl⟩⟩

/-- Settles O38: the step is `afterExecute` of the instruction, read at each outcome of it. -/
theorem stepRunsTheInstructionAtPc : Obligations.StepRunsTheInstructionAtPc := by
  intro i s ms h hwf hi
  refine ⟨fun t => h.step_of_exec hwf hi, fun t hx ⟨r, hr⟩ => ?_, fun f hx => ?_, exec_ne_refused i s⟩
  · rw [h.step_of_holds hwf hi, hx, afterExecute, endOfStep_faulted ms hr]
  · rw [h.step_of_holds hwf hi, hx, afterExecute]

/-- Settles O42: the next state is `raise` of the old one, with the opcode as the fetch left it. -/
theorem faultingStepChangesOnlyTheStatus : Obligations.FaultingStepChangesOnlyTheStatus := by
  intro s t ms h hstep ht
  rcases h.eq_raise_of_isFaulted hstep ht with ⟨k, hf, rfl⟩ | ⟨k, op, hf, rfl⟩
  · refine ⟨rfl, _, rfl, rfl, fun k' hk' => ?_, fun op' hop' => ?_⟩
    · cases hf.symm.trans hk'
      exact ⟨rfl, rfl⟩
    · cases hf.symm.trans hop'
  · refine ⟨rfl, _, rfl, rfl, fun k' hk' => ?_, fun op' hop' => ?_⟩
    · cases hf.symm.trans hk'
    · cases hf.symm.trans hop'
      rfl

end Sys2Proof.Machine
end

section
/-! Where the PC goes after an instruction that does not steer it: O48. -/

namespace Sys2Proof.Machine

/-- R94: of the changes that write PC otherwise or not at all, each belongs to an instruction that R94 names. -/
theorem Change.pc_eq {i : Instr} {s t : State} (c : Change s i t) (hf : ¬ t.isFaulted) (h : i.steersPc = false) :
    t.pc = s.pc + 2 := by
  cases c with
  | fault _ => exact absurd ⟨_, rfl⟩ hf
  | steer w hi => simp [hi] at h
  | ret _ _ | call _ _ | stall _ | logged _ => cases h
  | _ => rfl

/-- Settles O48, through `exec_change`. -/
theorem pcAdvancesByTwoUnlessStatedOtherwise : Obligations.PcAdvancesByTwoUnlessStatedOtherwise := by
  intro i s t _ hx hf hi
  rw [(exec_change hx).pc_eq hf hi]
  exact BitVec.toNat_add s.pc 2

end Sys2Proof.Machine
end

section
/-! The two stalls, `Fx0A` with no key down and an unknown opcode under `Continue`: one of them (O20, with the fault of the
other policy), and any number of them (O57). -/

namespace Sys2Proof.Machine

/-! ## One stall -/

theorem exec_unknown_of_continue {s : State} (op : Word) (h : s.cfg.unknownPolicy = .continue) :
    exec (.unknown op) s = .next (s.addLog op) := by
  show execUnknown op s = _
  unfold execUnknown
  rw [h]

theorem exec_unknown_of_fatal {s : State} (op : Word) (h : s.cfg.unknownPolicy = .fatal) :
    exec (.unknown op) s = .next (raise .illegalOpcode (some op) s) := by
  show execUnknown op s = _
  unfold execUnknown
  rw [h]

/-- Settles O20. -/
theorem unknownOpcodeStallsOrFaults : Obligations.UnknownOpcodeStallsOrFaults :=
  fun op _ => ⟨exec_unknown_of_continue op, fun h => ⟨_, exec_unknown_of_fatal op h, rfl⟩⟩

theorem firstKeyDown_of_no_key {s : State} (h : ∀ j : Key, s.keys[j.val] = false) : s.firstKeyDown = none :=
  List.find?_eq_none.mpr fun k _ => by simp [State.isDown, h k]

theorem exec_ldVxK_of_no_key {s : State} (x : Reg) (h : ∀ j : Key, s.keys[j.val] = false) :
    exec (.ldVxK x) s = .next s := by
  show execLdVxK x s = _
  unfold execLdVxK
  rw [firstKeyDown_of_no_key h]

/-! ## Any number of stalls -/

/-- The state with other timers and another speaker flag (R27, R28, R36). -/
def State.withTimers (s : State) (dt : Byte) (dta : Rat) (st : Byte) (sta : Rat) (f : Bool) : State :=
  { s with dt := dt, dta := dta, st := st, sta := sta, beepPending := f }

/-- The state with another log output (R90, R95). -/
def State.withLog (s : State) (l : List LogRecord) : State := { s with log := l }

/-- The two states agree in everything but the timers and the speaker flag. -/
def TimersAlike (s u : State) : Prop := ∃ dt dta st sta f, u = s.withTimers dt dta st sta f

theorem TimersAlike.eq {s u : State} (h : TimersAlike s u) :
    u = { s with dt := u.dt, dta := u.dta, st := u.st, sta := u.sta, beepPending := u.beepPending } := by
  obtain ⟨dt, dta, st, sta, f, rfl⟩ := h
  rfl

theorem TimersAlike.refl (s : State) : TimersAlike s s := ⟨_, _, _, _, _, rfl⟩

/-- A family of properties that each step takes one further reaches the `k`-th in `k` steps. -/
theorem run_of_steps {P : Nat → State → Prop} (hstep : ∀ n u, P n u → ∃ t, step u = .next t ∧ P (n + 1) t) {s : State}
    (h : P 0 s) (k : Nat) : ∃ t : State, Host.Core.run Sys2Proof.core k s = .next t ∧ P k t := by
  induction k generalizing P s with
  | zero => exact ⟨s, rfl, h⟩
  | succ k ih =>
    obtain ⟨t, hst, ht⟩ := hstep 0 s h
    obtain ⟨w, hw, hPw⟩ := ih (P := fun n => P (n + 1)) (fun n => hstep (n + 1)) ht
    exact ⟨w, (run_next hst).trans hw, hPw⟩

section
variable {s u : State} {ms : Rat}

/-- R162: a step of the wait for key, taken where the states agree. -/
theorem step_waiting {x : Reg} (h : s.Ready ms) (hi : s.Holds (encode (.ldVxK x)))
    (hkeys : ∀ j : Key, s.keys[j.val] = false) (hu : TimersAlike s u) :
    ∃ t, step u = .next t ∧ TimersAlike s t := by
  obtain ⟨dt, dta, st, sta, f, rfl⟩ := hu
  have ready : (s.withTimers dt dta st sta f).Ready ms := { h with }
  have holds : (s.withTimers dt dta st sta f).Holds (encode (.ldVxK x)) := { hi with }
  exact ⟨_, ready.step_of_exec rfl holds (exec_ldVxK_of_no_key x hkeys) ready.not_isFaulted, _, _, _, _, _, rfl⟩

/-- R95: a logged stall, taken where the states agree but for `n` records. -/
theorem step_logging {op : Word} (hop : isInstructionWord op = false) (h : s.Ready ms) (hi : s.Holds op)
    (hpolicy : s.cfg.unknownPolicy = .continue) (n : Nat)
    (hu : TimersAlike (s.withLog (s.log ++ List.replicate n ⟨op, s.pc⟩)) u) :
    ∃ t, step u = .next t ∧ TimersAlike (s.withLog (s.log ++ List.replicate (n + 1) ⟨op, s.pc⟩)) t := by
  rw [List.replicate_succ', ← List.append_assoc]
  obtain ⟨dt, dta, st, sta, f, rfl⟩ := hu
  generalize s.log ++ List.replicate n ⟨op, s.pc⟩ = l
  have ready : ((s.withLog l).withTimers dt dta st sta f).Ready ms := { h with }
  have holds : ((s.withLog l).withTimers dt dta st sta f).Holds op := { hi with }
  have hwf : (Instr.unknown op).wf = true := by simp [Instr.wf, hop]
  exact ⟨_, ready.step_of_exec hwf holds (exec_unknown_of_continue op hpolicy) ready.not_isFaulted, _, _, _, _, _, rfl⟩

end

/-- Settles O57: `run_of_steps` with the frame of `k` stalls as the family. -/
theorem stalledStepsAccumulateOnlyLogRecords : Obligations.StalledStepsAccumulateOnlyLogRecords := by
  intro s ms k h
  refine ⟨fun x hi hkeys => ?_, fun op hop hi hpolicy => ?_⟩
  · obtain ⟨t, hrun, ht⟩ :=
      run_of_steps (P := fun _ u => TimersAlike s u) (fun _ _ => step_waiting h hi hkeys) (.refl s) k
    exact ⟨t, hrun, ht.eq⟩
  · have start : TimersAlike (s.withLog (s.log ++ List.replicate 0 ⟨op, s.pc⟩)) s := by
      rw [List.replicate_zero, List.append_nil]
      exact .refl s
    obtain ⟨t, hrun, ht⟩ := run_of_steps (fun n _ => step_logging hop h hi hpolicy n) start k
    exact ⟨t, hrun, ht.eq⟩

end Sys2Proof.Machine
end

section
/-! Jumps, call and return (R110 to R114): O16 to O19. -/

namespace Sys2Proof

/-- R74, R75: a word that a well-formed instruction encodes to decodes to that instruction. -/
theorem decode_eq_of_encode_eq {op : Word} {i : Instr} (h : encode i = op) (hwf : i.wf = true) : decode op = i :=
  h ▸ decode_encode hwf

end Sys2Proof

namespace Sys2Proof.Machine

/-! ## Jumps -/

@[simp] theorem zextAddr_toNat (nnn : Addr12) : (zextAddr nnn).toNat = nnn.toNat :=
  BitVec.toNat_setWidth_of_le (by decide)

@[simp] theorem zextByte_toNat (b : Byte) : (zextByte b).toNat = b.toNat :=
  BitVec.toNat_setWidth_of_le (by decide)

/-- R113: the sum is at most 0x0FFF + 0xFF, so it never wraps. -/
theorem offsetTarget_toNat (nnn : Addr12) (s : State) :
    (offsetTarget nnn s).toNat = nnn.toNat + (s.readV 0).toNat := by
  have hnnn := nnn.isLt
  have hv := (s.readV 0).isLt
  rw [offsetTarget, BitVec.toNat_add, zextAddr_toNat, zextByte_toNat]
  omega

theorem onlyPc_setPc (s : State) (w : Word) : OnlyPc s (s.setPc w) := ⟨rfl, sameBytes_of_mem_eq rfl⟩

/-- Settles O16: the target is the new PC, and neither sum nor extension loses a bit. -/
theorem jumpsSetPcDirectly : Obligations.JumpsSetPcDirectly := by
  refine ⟨fun _ h => decode_eq_of_encode_eq (encodeNNN_fields h) rfl,
    fun _ h => decode_eq_of_encode_eq (encodeNNN_fields h) rfl, fun nnn s => ⟨?_, ?_⟩⟩
  · exact ⟨_, rfl, zextAddr_toNat nnn, onlyPc_setPc s (zextAddr nnn)⟩
  · exact ⟨_, rfl, offsetTarget_toNat nnn s, onlyPc_setPc s (offsetTarget nnn s)⟩

/-! ## Call and return -/

section
variable {s : State}

theorem exec_call_of_lt (nnn : Addr12) (h : s.sp.toNat < 15) :
    exec (.call nnn) s = .next ((s.push s.pc).setPc (zextAddr nnn)) :=
  if_neg (Nat.not_le.mpr h)

theorem exec_call_of_le (nnn : Addr12) (h : 15 ≤ s.sp.toNat) :
    exec (.call nnn) s = .next (raise .stackOverflow (some (encode (.call nnn))) s) :=
  if_pos h

theorem exec_ret_of_slot {w : Word} (hsp : s.sp ≠ 0) (hw : s.stackAt s.sp.toNat = some w) :
    exec .ret s = .next (s.drop.setPc (w + 2)) := by
  show execRet s = _
  rw [execRet, if_neg hsp, hw]

theorem exec_ret_of_zero (hsp : s.sp = 0) : exec .ret s = .next (raise .stackUnderflow (some 0x00EE) s) :=
  if_pos hsp

theorem push_sp_toNat (w : Word) (h : s.sp.toNat < 15) : (s.push w).sp.toNat = s.sp.toNat + 1 :=
  BitVec.toNat_add_of_lt (y := 1) (by change _ + 1 < _; omega)

theorem drop_sp_toNat (h : s.sp ≠ 0) : s.drop.sp.toNat = s.sp.toNat - 1 :=
  BitVec.toNat_sub_of_le (y := 1) (by bv_omega)

end

/-- Settles O17: the guard of the call decides between the push and the fault. -/
theorem callPushesItsOwnAddress : Obligations.CallPushesItsOwnAddress := by
  refine ⟨fun _ h => decode_eq_of_encode_eq (encodeNNN_fields h) rfl, fun nnn s => ⟨fun h => ?_, fun h => ?_⟩⟩
  · exact ⟨_, exec_call_of_lt nnn h, push_sp_toNat s.pc h, stackAt_push_same s s.pc h, zextAddr_toNat nnn,
      fun _ => stackAt_push_other s s.pc, rfl, sameBytes_of_mem_eq rfl⟩
  · exact ⟨_, exec_call_of_le nnn h, rfl⟩

/-- Settles O18: the guard of the return decides between the fault and the pop. -/
theorem returnPopsAndAddsTwo : Obligations.ReturnPopsAndAddsTwo := by
  refine ⟨decode_encode (i := .ret) rfl, fun s => ⟨fun w hsp hw => ?_, fun hsp => ?_⟩⟩
  · exact ⟨_, exec_ret_of_slot hsp hw, BitVec.toNat_add w 2, drop_sp_toNat hsp, rfl, sameBytes_of_mem_eq rfl⟩
  · exact ⟨_, exec_ret_of_zero hsp, rfl⟩

/-- Settles O19: the slot that the return reads is the one that the call wrote, and it holds the call's address. -/
theorem returnLandsAfterTheCall : Obligations.ReturnLandsAfterTheCall := by
  intro nnn s h
  refine ⟨_, exec_call_of_lt nnn h, fun u hsp hslot => ?_⟩
  have hpush : u.sp.toNat = s.sp.toNat + 1 := by rw [hsp]; exact push_sp_toNat s.pc h
  have hpending : u.stackAt u.sp.toNat = some s.pc := by rw [hpush, hslot]; exact stackAt_push_same s s.pc h
  have hne : u.sp ≠ 0 := fun h0 => by simp [h0] at hpush
  have hrestored : u.drop.sp = s.sp := by
    calc u.sp - 1 = s.sp + 1 - 1 := by rw [hsp]; rfl
      _ = s.sp := BitVec.add_sub_cancel s.sp 1
  exact ⟨_, exec_ret_of_slot hne hpending, BitVec.toNat_add s.pc 2, hrestored, rfl⟩

end Sys2Proof.Machine
end

section
/-! The conditional skips (R120 to R124): O15. -/

namespace Sys2Proof.Machine

theorem skipIf_pc_toNat (s : State) {c : Bool} {p : Prop} [Decidable p] (h : c = true ↔ p) :
    (s.skipIf c).pc.toNat = (s.pc.toNat + if p then 4 else 2) % 65536 := by
  rw [State.skipIf_pc]
  by_cases hp : p
  · rw [if_pos (h.mpr hp), if_pos hp]
    exact BitVec.toNat_add s.pc 4
  · rw [if_neg (mt h.mp hp), if_neg hp]
    exact BitVec.toNat_add s.pc 2

/-- R124: a skip is only a PC update, by 4 when the condition holds and by 2 otherwise. -/
theorem skipIf_onlyPc (s : State) {c : Bool} {p : Prop} [Decidable p] (h : c = true ↔ p) :
    OnlyPc s (s.skipIf c) ∧ (s.skipIf c).pc.toNat = (s.pc.toNat + if p then 4 else 2) % 65536 :=
  ⟨onlyPc_setPc s _, skipIf_pc_toNat s h⟩

/-- Settles O15: the four instructions differ only in the condition they hand to the skip. -/
theorem skipsAddFourWhenTheirConditionHolds : Obligations.SkipsAddFourWhenTheirConditionHolds := by
  refine ⟨fun _ h => decode_eq_of_encode_eq (encodeXKK_fields h) rfl,
    fun _ h => decode_eq_of_encode_eq (encodeXKK_fields h) rfl, fun op h => ?_, fun op h => ?_,
    fun x y kk s => ⟨?_, ?_, ?_, ?_⟩⟩
  · rw [decode, h]; rfl
  · rw [decode, h]; rfl
  · exact ⟨_, rfl, skipIf_onlyPc s beq_iff_eq⟩
  · exact ⟨_, rfl, skipIf_onlyPc s bne_iff_ne⟩
  · exact ⟨_, rfl, skipIf_onlyPc s beq_iff_eq⟩
  · exact ⟨_, rfl, skipIf_onlyPc s bne_iff_ne⟩

end Sys2Proof.Machine
end

section
/-! Register loads, the arithmetic family and the random byte (R130 to R143): O6 to O14. -/

namespace Sys2Proof.Machine

/-! ## One destination, and a destination with the flag -/

theorem advance_pc_toNat (s : State) : s.advance.pc.toNat = (s.pc.toNat + 2) % 65536 := BitVec.toNat_add s.pc 2

theorem sameRegsExcept_writeV (s : State) (x : Reg) (b : Byte) : SameRegsExcept [x] s (s.writeV x b) :=
  fun _ hr => State.readV_writeV_other s b (List.ne_of_not_mem_cons hr)

/-- R42, R94: an instruction with the one destination Vx moves the PC on and changes no other register. -/
theorem writeV_advance_keeps (s : State) (x : Reg) (b : Byte) :
    (s.writeV x b).advance.pc.toNat = (s.pc.toNat + 2) % 65536 ∧ OnlyRegs [x] s (s.writeV x b).advance :=
  ⟨advance_pc_toNat _, rfl, sameRegsExcept_writeV s x b, sameBytes_of_mem_eq rfl⟩

/-- R142: a destination other than VF holds the result. -/
theorem readV_writeResult_of_ne (s : State) {x : Reg} (b : Byte) (c : Bool) (hx : x ≠ vF) :
    (s.writeResult x b c).readV x = b := by
  rw [State.readV_writeResult, if_neg hx, if_pos rfl]

/-- R142: the flag is written last, so VF holds it for every destination. -/
theorem readV_vF_writeResult (s : State) (x : Reg) (b : Byte) (c : Bool) :
    (s.writeResult x b c).readV vF = flagByte c := State.readV_writeV_same _ vF _

theorem sameRegsExcept_writeResult (s : State) (x : Reg) (b : Byte) (c : Bool) :
    SameRegsExcept [x, vF] s (s.writeResult x b c) := by
  intro r hr
  obtain ⟨hx, hf⟩ : r ≠ x ∧ r ≠ vF := by simpa using hr
  rw [State.readV_writeResult, if_neg hf, if_neg hx]

/-- R42, R94, R142: what an instruction with a result and a flag does, its two numbers given: `f` reads a register as the
number that the rule speaks of. -/
theorem writeResult_advance_spec {α : Type} (f : Byte → α) (s : State) (x : Reg) {b : Byte} {c : Bool} {v : α} {n : Nat}
    (hresult : f b = v) (hflag : (flagByte c).toNat = n) :
    (x ≠ vF → f ((s.writeResult x b c).advance.readV x) = v) ∧
    ((s.writeResult x b c).advance.readV vF).toNat = n ∧
    (s.writeResult x b c).advance.pc.toNat = (s.pc.toNat + 2) % 65536 ∧
    OnlyRegs [x, vF] s (s.writeResult x b c).advance := by
  refine ⟨fun hx => ?_, ?_, advance_pc_toNat _, rfl, sameRegsExcept_writeResult s x b c, sameBytes_of_mem_eq rfl⟩
  · rw [State.readV_advance, readV_writeResult_of_ne s b c hx, hresult]
  · rw [State.readV_advance, readV_vF_writeResult, hflag]

/-! ## The flags and the results as numbers -/

theorem flagByte_toNat (c : Bool) : (flagByte c).toNat = c.toNat := by cases c <;> rfl

theorem flagByte_decide_toNat (p : Prop) [Decidable p] : (flagByte (decide p)).toNat = if p then 1 else 0 := by
  by_cases h : p <;> simp [h, flagByte]

/-- R138: the bit shifted out on the right is the remainder. -/
theorem flagByte_lowBitFlag_toNat (a : Byte) : (flagByte (lowBitFlag a)).toNat = a.toNat % 2 := by
  calc (flagByte (lowBitFlag a)).toNat = (a.toNat.testBit 0).toNat := flagByte_toNat _
    _ = a.toNat / 2 ^ 0 % 2 := Nat.toNat_testBit ..
    _ = a.toNat % 2 := by rw [pow_zero, Nat.div_one]

/-- R140: the bit shifted out on the left is the quotient by 128, since a byte is below 256. -/
theorem flagByte_highBitFlag_toNat (a : Byte) : (flagByte (highBitFlag a)).toNat = a.toNat / 128 := by
  have ha := a.isLt
  calc (flagByte (highBitFlag a)).toNat = (a.toNat.testBit 7).toNat := flagByte_toNat _
    _ = a.toNat / 2 ^ 7 % 2 := Nat.toNat_testBit ..
    _ = a.toNat / 128 := by omega

theorem byte_sub_toNat (a b : Byte) : ((a - b).toNat : Int) = ((a.toNat : Int) - b.toNat) % 256 := by
  have hb := b.isLt
  rw [BitVec.toNat_sub]
  omega

theorem byte_ushiftRight_one_toNat (a : Byte) : (a >>> 1).toNat = a.toNat / 2 := by
  rw [BitVec.toNat_ushiftRight, Nat.shiftRight_one]

theorem byte_shiftLeft_one_toNat (a : Byte) : (a <<< 1).toNat = a.toNat * 2 % 256 := by
  rw [BitVec.toNat_shiftLeft, Nat.shiftLeft_eq]

/-! ## One destination: loads, the immediate sum, the bitwise operations -/

/-- Settles O6: both are a write of the operand to Vx. -/
theorem registerLoadsWriteTheirOperand : Obligations.RegisterLoadsWriteTheirOperand := by
  refine ⟨fun _ h => decode_eq_of_encode_eq (encodeXKK_fields h) rfl,
    fun _ h hn => decode_eq_of_encode_eq (encodeXY_fields h hn) rfl, fun x y kk s => ⟨?_, ?_⟩⟩
  · exact ⟨_, rfl, State.readV_writeV_same s x kk, writeV_advance_keeps s x kk⟩
  · exact ⟨_, rfl, State.readV_writeV_same s x (s.readV y), writeV_advance_keeps s x (s.readV y)⟩

/-- Settles O7: the sum of bytes wraps, and Vx is the one destination. -/
theorem addImmediateWrapsAndSetsNoFlag : Obligations.AddImmediateWrapsAndSetsNoFlag := by
  refine ⟨fun _ h => decode_eq_of_encode_eq (encodeXKK_fields h) rfl,
    fun x kk s => ⟨_, rfl, ?_, writeV_advance_keeps s x _⟩⟩
  rw [State.readV_advance, State.readV_writeV_same, BitVec.toNat_add]

/-- Settles O8: Vx is the one destination of all three, and the library says what each does to a bit. -/
theorem bitwiseOperationsActOnEachBit : Obligations.BitwiseOperationsActOnEachBit := by
  refine ⟨fun _ h hn => decode_eq_of_encode_eq (encodeXY_fields h hn) rfl,
    fun _ h hn => decode_eq_of_encode_eq (encodeXY_fields h hn) rfl,
    fun _ h hn => decode_eq_of_encode_eq (encodeXY_fields h hn) rfl,
    fun x y s => ⟨⟨_, rfl, fun k => ?_, writeV_advance_keeps s x _⟩,
      ⟨_, rfl, fun k => ?_, writeV_advance_keeps s x _⟩, ⟨_, rfl, fun k => ?_, writeV_advance_keeps s x _⟩⟩⟩
  · rw [State.readV_advance, State.readV_writeV_same, BitVec.getLsbD_or]
  · rw [State.readV_advance, State.readV_writeV_same, BitVec.getLsbD_and]
  · rw [State.readV_advance, State.readV_writeV_same, BitVec.getLsbD_xor]

/-! ## A result and a flag -/

/-- Settles O9: the sum wraps, and the flag compares the sum of the old operands with 255. -/
theorem addSetsCarryFromTheOldOperands : Obligations.AddSetsCarryFromTheOldOperands :=
  ⟨fun _ h hn => decode_eq_of_encode_eq (encodeXY_fields h hn) rfl,
    fun x y s => ⟨_, rfl, writeResult_advance_spec BitVec.toNat s x
      (BitVec.toNat_add (s.readV x) (s.readV y)) (flagByte_decide_toNat _)⟩⟩

/-- Settles O10: the difference wraps, and the flag compares the old operands. -/
theorem subtractSetsFlagWhenStrictlyGreater : Obligations.SubtractSetsFlagWhenStrictlyGreater :=
  ⟨fun _ h hn => decode_eq_of_encode_eq (encodeXY_fields h hn) rfl,
    fun x y s => ⟨_, rfl, writeResult_advance_spec (fun r => (r.toNat : Int)) s x
      (byte_sub_toNat (s.readV x) (s.readV y)) (flagByte_decide_toNat _)⟩⟩

/-- Settles O11: the difference and the flag of `8xy5` with the operands swapped. -/
theorem reverseSubtractSetsFlagWhenVyGreater : Obligations.ReverseSubtractSetsFlagWhenVyGreater :=
  ⟨fun _ h hn => decode_eq_of_encode_eq (encodeXY_fields h hn) rfl,
    fun x y s => ⟨_, rfl, writeResult_advance_spec (fun r => (r.toNat : Int)) s x
      (byte_sub_toNat (s.readV y) (s.readV x)) (flagByte_decide_toNat _)⟩⟩

/-- Settles O12: quotient and remainder of the old Vx by 2. -/
theorem shiftRightHalvesAndKeepsTheLowBit : Obligations.ShiftRightHalvesAndKeepsTheLowBit :=
  ⟨fun _ h hn => decode_eq_of_encode_eq (encodeXY_fields h hn) rfl,
    fun x y s => ⟨_, rfl, writeResult_advance_spec BitVec.toNat s x
      (byte_ushiftRight_one_toNat (s.readV x)) (flagByte_lowBitFlag_toNat (s.readV x))⟩⟩

/-- Settles O13: the double wraps, and the flag is the bit that leaves the byte. -/
theorem shiftLeftDoublesAndKeepsTheHighBit : Obligations.ShiftLeftDoublesAndKeepsTheHighBit :=
  ⟨fun _ h hn => decode_eq_of_encode_eq (encodeXY_fields h hn) rfl,
    fun x y s => ⟨_, rfl, writeResult_advance_spec BitVec.toNat s x
      (byte_shiftLeft_one_toNat (s.readV x)) (flagByte_highBitFlag_toNat (s.readV x))⟩⟩

/-! ## The random byte -/

/-- Settles O14: a write of the masked byte to Vx, after the counter of free values went up by one. -/
theorem randomByteIsMaskedByTheImmediate : Obligations.RandomByteIsMaskedByTheImmediate := by
  refine ⟨fun _ h => decode_eq_of_encode_eq (encodeXKK_fields h) rfl, fun x kk s => ?_⟩
  have hread := State.readV_writeV_same s.nextFree x (Config.randByte s.freeCount &&& kk)
  refine ⟨_, rfl, hread, ?_, advance_pc_toNat _, rfl, sameRegsExcept_writeV s.nextFree x _, sameBytes_of_mem_eq rfl⟩
  rw [State.readV_advance, hread, BitVec.and_assoc, BitVec.and_not_self]
  exact BitVec.and_zero

end Sys2Proof.Machine
end

section
/-! The display (R150 to R152): the pixels of a draw as a list, what flipping a list of pixels does, and O21 to O23. -/

namespace Sys2Proof.Machine

/-- Settles O21: the grid becomes empty. -/
theorem clearDisplayTurnsEveryPixelOff : Obligations.ClearDisplayTurnsEveryPixelOff :=
  ⟨decode_encode (i := .cls) rfl, fun s =>
    ⟨_, rfl, fun _ => rfl, advance_pc_toNat s.clearDisplay, rfl, sameBytes_of_mem_eq rfl⟩⟩

/-! ## A draw whose bytes lie in Memory -/

/-- The n bytes at I (R151). -/
def spriteRows (s : State) (n : Fin 16) : List Byte := Memory.readBytes s.mem s.base n.val

theorem length_spriteRows (s : State) (n : Fin 16) : (spriteRows s n).length = n.val :=
  Memory.length_readBytes _ _ _

theorem getElem_spriteRows (s : State) (n : Fin 16) (k : Nat) (h : k < (spriteRows s n).length) :
    (spriteRows s n)[k] = s.byteAt (s.i.toNat + k) :=
  Memory.getElem_readBytes s.mem s.base n.val k h

section
variable (x y : Reg) (n : Fin 16) (s : State)

theorem exec_drw_of_range (h : n.val = 0 ∨ s.i.toNat + n.val - 1 < s.cfg.memSize) :
    exec (.drw x y n) s = .next (drawEffect x y n s) :=
  withRange_ok ((rangeOk_iff s n.val).mpr h)

theorem drawEffect_pix :
    (drawEffect x y n s).pix = (drawSprite s.cfg s.pix (s.readV x) (s.readV y) (spriteRows s n)).1 := rfl

/-- R151: VF holds the collision bit. -/
theorem readV_vF_drawEffect : (drawEffect x y n s).readV vF =
    flagByte (drawSprite s.cfg s.pix (s.readV x) (s.readV y) (spriteRows s n)).2 :=
  State.readV_writeV_same _ vF _

theorem drawEffect_pc_toNat : (drawEffect x y n s).pc.toNat = (s.pc.toNat + 2) % 65536 :=
  BitVec.toNat_add s.pc 2

theorem sameRegsExcept_drawEffect : SameRegsExcept [vF] s (drawEffect x y n s) :=
  sameRegsExcept_writeV (s.drawn _) vF _

end

/-- Settles O23: the rows of the loop are the bytes at I, and VF is the one destination. -/
theorem drawRunsTheSpriteLoopAndWritesOnlyVF : Obligations.DrawRunsTheSpriteLoopAndWritesOnlyVF := by
  intro x y n s h
  refine ⟨drawEffect x y n s, spriteRows s n, exec_drw_of_range x y n s h, length_spriteRows s n,
    getElem_spriteRows s n, drawEffect_pix x y n s, ?_, rfl, sameRegsExcept_drawEffect x y n s,
    sameBytes_of_mem_eq rfl⟩
  rw [readV_vF_drawEffect, flagByte_toNat, Bool.toNat, Bool.cond_eq_ite]

/-! ## Flipping a list of pixels -/

/-- The loop of R152 over the pixels of its 1 bits. -/
def xorPixels (ps : List Pixel) (a : Pixels × Bool) : Pixels × Bool := ps.foldl (fun b p => xorPixel p b) a

theorem xorPixels_append (ps qs : List Pixel) (a : Pixels × Bool) :
    xorPixels (ps ++ qs) a = xorPixels qs (xorPixels ps a) := List.foldl_append

/-- Where no pixel comes twice, no toggle undoes an earlier one. -/
theorem lit_xorPixels {ps : List Pixel} {a : Pixels × Bool} (hps : ps.Nodup) (hw : Pixels.wf a.1 = true) (p : Pixel) :
    Pixels.lit (xorPixels ps a).1 p = if p ∈ ps then !Pixels.lit a.1 p else Pixels.lit a.1 p := by
  induction ps generalizing a with
  | nil => rfl
  | cons q qs ih =>
    obtain ⟨hq, hqs⟩ := List.nodup_cons.mp hps
    have hstep : Pixels.lit (xorPixels (q :: qs) a).1 p =
        if p ∈ qs then !Pixels.lit (Pixels.toggle a.1 q) p else Pixels.lit (Pixels.toggle a.1 q) p :=
      ih hqs (Pixels.wf_toggle hw q)
    rw [hstep, Pixels.lit_toggle hw]
    by_cases hp : p = q
    · subst hp
      simp [hq]
    · simp [hp]

/-- Where no pixel comes twice, a pixel is seen as it was before the loop: the collision bit tells of the old grid. -/
theorem collision_xorPixels {ps : List Pixel} {a : Pixels × Bool} (hps : ps.Nodup) (hw : Pixels.wf a.1 = true) :
    (xorPixels ps a).2 = true ↔ a.2 = true ∨ ∃ p ∈ ps, Pixels.lit a.1 p = true := by
  induction ps generalizing a with
  | nil => simp [xorPixels]
  | cons q qs ih =>
    obtain ⟨hq, hqs⟩ := List.nodup_cons.mp hps
    have hstep : (xorPixels (q :: qs) a).2 = true ↔
        (a.2 || Pixels.lit a.1 q) = true ∨ ∃ p ∈ qs, Pixels.lit (Pixels.toggle a.1 q) p = true :=
      ih hqs (Pixels.wf_toggle hw q)
    have hrest : (∃ p ∈ qs, Pixels.lit (Pixels.toggle a.1 q) p = true) ↔ ∃ p ∈ qs, Pixels.lit a.1 p = true := by
      refine exists_congr fun p => and_congr_right fun hp => ?_
      rw [Pixels.lit_toggle hw, if_neg (ne_of_mem_of_not_mem hp hq)]
    rw [hstep, hrest, Bool.or_eq_true, List.exists_mem_cons_iff, or_assoc]

/-! ## The pixels of a sprite -/

/-- The pixels of the 1 bits of one row, from the left. -/
def rowPixels (w vx y : Nat) (row : Byte) : List Pixel :=
  (spriteColumns.filter fun col => row.getLsbD (7 - col)).map fun col => ⟨(vx + col) % w, y⟩

/-- The pixels of the 1 bits of a sprite, in the order of R152's loop. -/
def spritePixels (w h vx : Nat) : Nat → List Byte → List Pixel
  | _, [] => []
  | vy, row :: rest => rowPixels w vx (vy % h) row ++ spritePixels w h vx (vy + 1) rest

theorem drawRow_eq_xorPixels (w vx y : Nat) (row : Byte) (a : Pixels × Bool) :
    drawRow w vx y row a = xorPixels (rowPixels w vx y row) a := by
  rw [drawRow, xorPixels, rowPixels, List.foldl_map, List.foldl_filter]

theorem drawRows_eq_xorPixels (w h vx vy : Nat) (rows : List Byte) (a : Pixels × Bool) :
    drawRows w h vx vy rows a = xorPixels (spritePixels w h vx vy rows) a := by
  induction rows generalizing vy a with
  | nil => rfl
  | cons row rest ih => rw [drawRows, spritePixels, xorPixels_append, ih, drawRow_eq_xorPixels]

theorem mem_spriteColumns {col : Nat} : col ∈ spriteColumns ↔ col < 8 := List.mem_range (n := 8)

theorem mem_rowPixels {w vx y : Nat} {row : Byte} {p : Pixel} :
    p ∈ rowPixels w vx y row ↔ ∃ col < 8, row.getLsbD (7 - col) = true ∧ p.x = (vx + col) % w ∧ p.y = y := by
  obtain ⟨px, py⟩ := p
  simp only [rowPixels, List.mem_map, List.mem_filter, mem_spriteColumns, and_assoc, Pixel.mk.injEq, eq_comm]

theorem mem_spritePixels {w h vx vy : Nat} {rows : List Byte} {p : Pixel} :
    p ∈ spritePixels w h vx vy rows ↔ ∃ r, ∃ hr : r < rows.length, ∃ col < 8, rows[r].getLsbD (7 - col) = true ∧
      p.x = (vx + col) % w ∧ p.y = (vy + r) % h := by
  induction rows generalizing vy with
  | nil => simp [spritePixels]
  | cons row rest ih =>
    rw [spritePixels, List.mem_append, mem_rowPixels, ih]
    refine Iff.trans ?_ Nat.exists_lt_succ_left'.symm
    simp only [List.getElem_cons_zero, List.getElem_cons_succ, Nat.add_zero, Nat.add_assoc, Nat.add_comm 1]

theorem eq_of_add_mod_eq {m a i j : Nat} (hi : i < m) (hj : j < m) (h : (a + i) % m = (a + j) % m) : i = j :=
  (Nat.ModEq.add_left_cancel' a h).eq_of_lt_of_lt hi hj

/-- R152: with `W >= 8` the columns of a row stay apart. -/
theorem nodup_rowPixels {w : Nat} (hw : 8 ≤ w) (vx y : Nat) (row : Byte) : (rowPixels w vx y row).Nodup := by
  refine List.Nodup.map_on (fun i hi j hj h => ?_) (List.Nodup.filter _ (by decide : spriteColumns.Nodup))
  have hi : i < 8 := mem_spriteColumns.mp (List.mem_of_mem_filter hi)
  have hj : j < 8 := mem_spriteColumns.mp (List.mem_of_mem_filter hj)
  exact eq_of_add_mod_eq (hi.trans_le hw) (hj.trans_le hw) (congrArg Pixel.x h)

/-- R152: with `W >= 8` and `H >= n` the loop visits no pixel twice. -/
theorem nodup_spritePixels {w h : Nat} (hw : 8 ≤ w) (vx vy : Nat) {rows : List Byte} (hh : rows.length ≤ h) :
    (spritePixels w h vx vy rows).Nodup := by
  induction rows generalizing vy with
  | nil => exact List.nodup_nil
  | cons row rest ih =>
    rw [List.length_cons] at hh
    refine (nodup_rowPixels hw vx _ row).append (ih (vy + 1) (by omega)) fun p hp hrest => ?_
    obtain ⟨-, -, -, -, hy⟩ := mem_rowPixels.mp hp
    obtain ⟨r, hr, -, -, -, -, hy'⟩ := mem_spritePixels.mp hrest
    rw [hy, Nat.add_assoc] at hy'
    have hrow : 0 = 1 + r := eq_of_add_mod_eq (by omega) (by omega) hy'
    omega

/-! ## The draw -/

/-- The pixels under the 1 bits of the bytes at I, in the order of R152's loop. -/
def drawPixels (x y : Reg) (n : Fin 16) (s : State) : List Pixel :=
  spritePixels s.cfg.displayWidth s.cfg.displayHeight (s.readV x).toNat (s.readV y).toNat (spriteRows s n)

section
variable {x y : Reg} {n : Fin 16} {s : State}

theorem mem_drawPixels {p : Pixel} : p ∈ drawPixels x y n s ↔ SpriteCovers s x y n.val p := by
  simp only [drawPixels, mem_spritePixels, getElem_spriteRows, length_spriteRows, SpriteCovers, exists_prop,
    exists_and_left]

theorem nodup_drawPixels (hw : 8 ≤ s.cfg.displayWidth) (hh : n.val ≤ s.cfg.displayHeight) :
    (drawPixels x y n s).Nodup :=
  nodup_spritePixels hw _ _ ((length_spriteRows s n).trans_le hh)

theorem drawSprite_eq_xorPixels :
    drawSprite s.cfg s.pix (s.readV x) (s.readV y) (spriteRows s n) = xorPixels (drawPixels x y n s) (s.pix, false) :=
  drawRows_eq_xorPixels _ _ _ _ _ _

/-- R152: the draw flips its pixels, where it visits none of them twice. -/
theorem lit_drawEffect (hnodup : (drawPixels x y n s).Nodup) (hwf : Pixels.wf s.pix = true) (p : Pixel) :
    (drawEffect x y n s).pix.lit p = if p ∈ drawPixels x y n s then !s.pix.lit p else s.pix.lit p := by
  rw [drawEffect_pix, drawSprite_eq_xorPixels, lit_xorPixels hnodup hwf]

/-- R152: a draw that visits no pixel twice collides where one of its pixels was set. -/
theorem collision_drawSprite (hnodup : (drawPixels x y n s).Nodup) (hwf : Pixels.wf s.pix = true) :
    (drawSprite s.cfg s.pix (s.readV x) (s.readV y) (spriteRows s n)).2 = true ↔
      ∃ p, SpriteCovers s x y n.val p ∧ s.pix.lit p = true := by
  rw [drawSprite_eq_xorPixels, collision_xorPixels (a := (s.pix, false)) hnodup hwf]
  simp [mem_drawPixels]

end

/-- Settles O22: the loop flips a list of pixels without repetition, and lists those that the sprite covers. -/
theorem drawFlipsExactlyTheSpritePixels : Obligations.DrawFlipsExactlyTheSpritePixels := by
  refine ⟨fun _ h => decode_eq_of_encode_eq (encodeXYN_fields h) rfl, fun x y n s hrange hwf hw _ hh => ?_⟩
  have hnodup : (drawPixels x y n s).Nodup := nodup_drawPixels hw hh
  have hcollision := collision_drawSprite hnodup hwf
  refine ⟨_, exec_drw_of_range x y n s hrange, fun p hp => ?_, fun p hp => ?_, fun hcol => ?_, fun hcol => ?_,
    drawEffect_pc_toNat x y n s⟩
  · rw [lit_drawEffect hnodup hwf, if_pos (mem_drawPixels.mpr hp)]
  · rw [lit_drawEffect hnodup hwf, if_neg (mt mem_drawPixels.mp hp)]
  · rw [readV_vF_drawEffect, hcollision.mpr hcol]
    rfl
  · rw [readV_vF_drawEffect, Bool.eq_false_iff.mpr (mt hcollision.mp hcol)]
    rfl

end Sys2Proof.Machine
end

section
/-! The keypad (R160 to R162): the key skips and the wait for a key, O24 and O25. -/

namespace Sys2Proof.Machine

/-! ## The key skips -/

section
variable {x : Reg} {s : State} (wanted : Bool) (op : Word)

theorem keySkip_of_named {k : Key} (h : k.val = (s.readV x).toNat) :
    keySkip wanted x op s = .next (s.skipIf (s.isDown k == wanted)) := by
  rcases keySkip_cases wanted x op s with ⟨j, hj, heq⟩ | ⟨hge, -⟩
  · obtain rfl : k = j := Fin.ext (h.trans hj.symm)
    exact heq
  · have hk := k.isLt
    omega

theorem keySkip_of_gt (h : 15 < (s.readV x).toNat) :
    keySkip wanted x op s = .next (raise (.keyOutOfRange (s.readV x)) (some op) s) := by
  rcases keySkip_cases wanted x op s with ⟨j, hj, -⟩ | ⟨-, heq⟩
  · have hj' := j.isLt
    omega
  · exact heq

end

/-- Settles O24: Vx decides between skip and fault, and the two instructions differ only in the level they want. -/
theorem keySkipsFollowTheLevelOfTheNamedKey : Obligations.KeySkipsFollowTheLevelOfTheNamedKey := by
  refine ⟨fun _ h hkk => decode_eq_of_encode_eq (encodeX_fields h hkk) rfl,
    fun _ h hkk => decode_eq_of_encode_eq (encodeX_fields h hkk) rfl,
    fun x s => ⟨fun k hk => ⟨?_, ?_⟩, fun h => ⟨?_, ?_⟩⟩⟩
  · exact ⟨_, keySkip_of_named true _ hk, skipIf_onlyPc s beq_iff_eq⟩
  · exact ⟨_, keySkip_of_named false _ hk, skipIf_onlyPc s beq_iff_eq⟩
  · exact ⟨_, keySkip_of_gt true _ h, rfl⟩
  · exact ⟨_, keySkip_of_gt false _ h, rfl⟩

/-! ## Waiting for a key -/

section
variable {s : State}

/-- R162: the scan finds the lowest scanned key that is down. It finds some key, as this one is down, and neither of two
different keys can be lower than the other. -/
theorem firstKeyDown_of_lowest {k : Key} (hscan : k.val < s.cfg.keyScan.count) (hdown : s.isDown k = true)
    (hlowest : ∀ j : Key, j.val < k.val → s.isDown j = false) : s.firstKeyDown = some k := by
  cases hfirst : s.firstKeyDown with
  | none => exact absurd hdown (Bool.eq_false_iff.mp (firstKeyDown_none hfirst k hscan))
  | some j =>
    obtain ⟨-, hjdown, hjlowest⟩ := firstKeyDown_some hfirst
    have hjk : ¬ j.val < k.val := fun hlt => Bool.eq_false_iff.mp (hlowest j hlt) hjdown
    have hkj : ¬ k.val < j.val := fun hlt => Bool.eq_false_iff.mp (hjlowest k hlt) hdown
    exact congrArg some (Fin.ext (by omega))

theorem firstKeyDown_of_none_scanned (h : ∀ k : Key, k.val < s.cfg.keyScan.count → s.isDown k = false) :
    s.firstKeyDown = none := by
  cases hfirst : s.firstKeyDown with
  | none => rfl
  | some k =>
    obtain ⟨hscan, hdown, -⟩ := firstKeyDown_some hfirst
    exact absurd hdown (Bool.eq_false_iff.mp (h k hscan))

theorem exec_ldVxK_of_found (x : Reg) {k : Key} (h : s.firstKeyDown = some k) :
    exec (.ldVxK x) s = .next (s.writeV x (BitVec.ofNat 8 k.val)).advance := by
  show execLdVxK x s = _
  rw [execLdVxK, h]

theorem exec_ldVxK_of_not_found (x : Reg) (h : s.firstKeyDown = none) : exec (.ldVxK x) s = .next s := by
  show execLdVxK x s = _
  rw [execLdVxK, h]

end

theorem keyByte_toNat (k : Key) : (BitVec.ofNat 8 k.val).toNat = k.val :=
  Nat.mod_eq_of_lt (Nat.lt_trans k.isLt (by decide))

/-- Settles O25: the scan finds the lowest key, which is the byte written to Vx, or finds none. -/
theorem waitForKeyTakesTheLowestKeyOrStalls : Obligations.WaitForKeyTakesTheLowestKeyOrStalls := by
  refine ⟨fun _ h hkk => decode_eq_of_encode_eq (encodeX_fields h hkk) rfl,
    fun x s => ⟨fun k hscan hdown hlowest => ?_, fun h => ?_⟩⟩
  · refine ⟨_, exec_ldVxK_of_found x (firstKeyDown_of_lowest hscan hdown hlowest), ?_, writeV_advance_keeps s x _⟩
    rw [State.readV_advance, State.readV_writeV_same, keyByte_toNat]
  · exact exec_ldVxK_of_not_found x (firstKeyDown_of_none_scanned h)

end Sys2Proof.Machine
end

section
/-! The timer transfers (R170 to R172): O26 and O27. -/

namespace Sys2Proof.Machine

/-- Settles O26: the step is a write of DT to Vx, with the frame that every register write has. -/
theorem readDelayTimerCopiesTheInteger : Obligations.ReadDelayTimerCopiesTheInteger :=
  ⟨fun _ h hkk => decode_eq_of_encode_eq (encodeX_fields h hkk) rfl,
    fun x s => ⟨_, rfl, State.readV_writeV_same s x s.dt, writeV_advance_keeps s x s.dt⟩⟩

/-- Settles O27: each step is one timer write, which sets the integer and the accumulator from the same byte. -/
theorem writeTimerSetsIntegerAndAccumulator : Obligations.WriteTimerSetsIntegerAndAccumulator := by
  refine ⟨fun _ h hkk => decode_eq_of_encode_eq (encodeX_fields h hkk) rfl,
    fun _ h hkk => decode_eq_of_encode_eq (encodeX_fields h hkk) rfl, fun x s => ⟨?_, ?_⟩⟩
  · exact ⟨_, rfl, rfl, rfl, advance_pc_toNat _, rfl, sameBytes_of_mem_eq rfl⟩
  · exact ⟨_, rfl, rfl, rfl, advance_pc_toNat _, rfl, sameBytes_of_mem_eq rfl⟩

end Sys2Proof.Machine
end

section
/-! The writes of I (R180 to R182): O31. -/

namespace Sys2Proof.Machine

/-- R182: a font address is at most 255 * 5, so no bit of the product is lost. -/
theorem fontAddress_toNat (b : Byte) : (fontAddress b).toNat = b.toNat * 5 := by
  have hb := b.isLt
  exact Nat.mod_eq_of_lt (show b.toNat * 5 < 2 ^ 16 by omega)

theorem add_zextByte_toNat (w : Word) (b : Byte) : (w + zextByte b).toNat = (w.toNat + b.toNat) % 65536 := by
  rw [BitVec.toNat_add, zextByte_toNat]

/-- R42, R94: an instruction that only writes I moves the PC on and changes nothing else. -/
theorem setI_advance_keeps (s : State) (w : Word) :
    (s.setI w).advance.pc.toNat = (s.pc.toNat + 2) % 65536 ∧ OnlyI s (s.setI w).advance :=
  ⟨advance_pc_toNat _, rfl, sameBytes_of_mem_eq rfl⟩

/-- Settles O31: the three instructions differ only in the address they write to I. -/
theorem addressRegisterWrites : Obligations.AddressRegisterWrites := by
  refine ⟨fun _ h => decode_eq_of_encode_eq (encodeNNN_fields h) rfl,
    fun _ h hkk => decode_eq_of_encode_eq (encodeX_fields h hkk) rfl,
    fun _ h hkk => decode_eq_of_encode_eq (encodeX_fields h hkk) rfl, fun x nnn s => ⟨?_, ?_, ?_⟩⟩
  · exact ⟨_, rfl, zextAddr_toNat nnn, setI_advance_keeps s _⟩
  · exact ⟨_, rfl, add_zextByte_toNat s.i (s.readV x), setI_advance_keeps s _⟩
  · exact ⟨_, rfl, fontAddress_toNat (s.readV x), setI_advance_keeps s _⟩

end Sys2Proof.Machine
end

section
/-! The memory instructions (R183 to R185, R205): O32 to O35. -/

namespace Sys2Proof.Machine

/-! ## The range check and the stored bytes -/

section
variable {s t : State}

/-- R63, R205: the check fails exactly when one of the addresses at I lies outside Memory. -/
theorem rangeOk_eq_false_iff {len : Nat} :
    s.rangeOk len = false ↔ ∃ k, k < len ∧ s.cfg.memSize ≤ s.i.toNat + k := by
  rw [← Bool.not_eq_true, rangeOk_iff]
  constructor
  · intro h
    exact ⟨len - 1, by omega, by omega⟩
  · rintro ⟨k, hk, hout⟩
    omega

/-- R205: a range whose last byte lies outside Memory is a fault, recorded with the address of that byte. -/
theorem withRange_of_outside {n : Nat} (op : Word) (effect : State) (h : s.cfg.memSize ≤ s.i.toNat + n) :
    withRange (n + 1) op s effect = .next (raise (.memOutOfRange (s.i.toNat + n)) (some op) s) :=
  withRange_bad (rangeOk_eq_false_iff.mpr ⟨n, Nat.lt_succ_self n, h⟩)

/-- R42, R51: a store of bytes changes no byte outside their range. -/
theorem sameBytesOutside_of_mem_eq {a : Nat} {bs : List Byte} (h : t.mem = Memory.writeBytes s.mem a bs) :
    SameBytesOutside a bs.length s t := by
  intro b hb
  rw [State.byteAt, h, Memory.read_writeBytes_outside s.mem a bs hb]
  rfl

theorem stepI_i_toNat (x : Reg) : (s.stepI x).i.toNat = (s.i.toNat + x.val + 1) % 65536 := by
  have hx := x.isLt
  show (s.i + BitVec.ofNat 16 (x.val + 1)).toNat = _
  rw [BitVec.toNat_add, BitVec.toNat_ofNat]
  omega

end

/-! ## The decimal digits -/

section
variable {x : Reg} {s : State}

theorem exec_ldB_of_lt (h : s.i.toNat + 2 < s.cfg.memSize) : exec (.ldB x) s = .next (bcdEffect x s) :=
  withRange_ok ((rangeOk_iff s 3).mpr (.inr h))

/-- R183: digit `k` of Vx stands `k` bytes above I. -/
theorem byteAt_bcdEffect (hw : Memory.wf s.mem = true) {k : Nat} (hk : k < 3) :
    (bcdEffect x s).byteAt (s.base + k) = (bcdDigits (s.readV x))[k] :=
  Memory.read_writeBytes_inside hw s.base (bcdDigits (s.readV x)) hk

theorem byteAt_bcdEffect_toNat (hw : Memory.wf s.mem = true) :
    ((bcdEffect x s).byteAt s.base).toNat = (s.readV x).toNat / 100 ∧
    ((bcdEffect x s).byteAt (s.base + 1)).toNat = (s.readV x).toNat / 10 % 10 ∧
    ((bcdEffect x s).byteAt (s.base + 2)).toNat = (s.readV x).toNat % 10 := by
  have hv := (s.readV x).isLt
  have hdigit {k n : Nat} (hk : k < 3) (hn : n < 2 ^ 8) (h : (bcdDigits (s.readV x))[k] = BitVec.ofNat 8 n) :
      ((bcdEffect x s).byteAt (s.base + k)).toNat = n := by
    rw [byteAt_bcdEffect hw hk, h]
    exact Nat.mod_eq_of_lt hn
  exact ⟨hdigit (k := 0) (by decide) (by omega) rfl, hdigit (by decide) (by omega) rfl,
    hdigit (by decide) (by omega) rfl⟩

end

/-- Settles O32: the bytes that the effect stores read back as the digits. -/
theorem bcdStoreWritesTheThreeDigits : Obligations.BcdStoreWritesTheThreeDigits := by
  refine ⟨fun _ h hkk => decode_eq_of_encode_eq (encodeX_fields h hkk) rfl, fun x s => ⟨fun h => ?_, fun h => ?_⟩⟩
  · exact ⟨_, exec_ldB_of_lt h, byteAt_bcdEffect_toNat, rfl,
      sameBytesOutside_of_mem_eq (bs := bcdDigits (s.readV x)) rfl, advance_pc_toNat _, rfl⟩
  · exact ⟨_, withRange_of_outside _ _ h, rfl⟩

/-! ## Register dump and load -/

/-- Settles O33: byte `r` of the dump is Vr, and the store is as long as the range. -/
theorem registerDumpStoresV0ToVx : Obligations.RegisterDumpStoresV0ToVx := by
  refine ⟨fun _ h hkk => decode_eq_of_encode_eq (encodeX_fields h hkk) rfl, fun x s => ⟨fun h => ?_, fun h => ?_⟩⟩
  · have hout : SameBytesOutside s.base (dumpBytes x s).length s (dumpEffect x s) := sameBytesOutside_of_mem_eq rfl
    rw [length_dumpBytes] at hout
    exact ⟨_, exec_storeRegs_of_lt h, fun hw _ => byteAt_dumpEffect hw, rfl, hout, stepI_i_toNat x,
      advance_pc_toNat _, rfl⟩
  · exact ⟨_, withRange_of_outside _ _ h, rfl⟩

theorem exec_loadRegs_of_lt {x : Reg} {s : State} (h : s.i.toNat + x.val < s.cfg.memSize) :
    exec (.loadRegs x) s = .next (loadEffect x s) :=
  withRange_ok ((rangeOk_iff s (x.val + 1)).mpr (.inr h))

/-- Settles O34: `readV_loadFrom` says of every register whether it is loaded or stays. -/
theorem registerLoadReadsV0ToVx : Obligations.RegisterLoadReadsV0ToVx := by
  refine ⟨fun _ h hkk => decode_eq_of_encode_eq (encodeX_fields h hkk) rfl, fun x s => ⟨fun h => ?_, fun h => ?_⟩⟩
  · exact ⟨_, exec_loadRegs_of_lt h, fun r hr => (readV_loadFrom s x r).trans (if_pos hr),
      fun r hr => (readV_loadFrom s x r).trans (if_neg (Nat.not_le.mpr hr)), stepI_i_toNat x, advance_pc_toNat _, rfl,
      sameBytes_of_mem_eq rfl⟩
  · exact ⟨_, withRange_of_outside _ _ h, rfl⟩

/-! ## The one check of the four memory instructions -/

/-- R64, R205: an instruction that touches bytes at I is the range check before an effect that keeps the status. -/
theorem exec_eq_withRange {i : Instr} {len : Nat} (s : State) (h : i.bytesAtI = some len) :
    ∃ effect : State, effect.status = s.status ∧ exec i s = withRange len (encode i) s effect := by
  cases i with
  | drw x y n => cases h; exact ⟨drawEffect x y n s, rfl, rfl⟩
  | ldB x => cases h; exact ⟨bcdEffect x s, rfl, rfl⟩
  | storeRegs x => cases h; exact ⟨dumpEffect x s, rfl, rfl⟩
  | loadRegs x => cases h; exact ⟨loadEffect x s, rfl, rfl⟩
  | _ => cases h

/-- Settles O35: the two outcomes of the range check. -/
theorem memoryInstructionsFaultOutsideMemory : Obligations.MemoryInstructionsFaultOutsideMemory := by
  intro i len s t hs hlen hx
  rw [← rangeOk_eq_false_iff]
  obtain ⟨effect, hstatus, heq⟩ := exec_eq_withRange s hlen
  rcases withRange_cases (heq.symm.trans hx) with ⟨hr, rfl⟩ | ⟨hr, rfl⟩
  · have hf : ¬ t.isFaulted := fun ⟨r, hr⟩ => nomatch hs.symm.trans (hstatus.symm.trans hr)
    exact ⟨iff_of_false hf (by simp [hr]), fun h => absurd h hf⟩
  · exact ⟨iff_of_true ⟨_, rfl⟩ hr, fun _ => rfl⟩

end Sys2Proof.Machine
end

section
/-! The one kind of fault of each instruction: O43. -/

namespace Sys2Proof.Machine

/-- Settles O43, through `exec_change`: the next state is `raise` of the old one. -/
theorem eachInstructionRaisesOnlyItsOwnFault : Obligations.EachInstructionRaisesOnlyItsOwnFault := by
  intro i s t r hs hx hr
  obtain ⟨k, hk, rfl⟩ := (exec_change hx).eq_raise_of_isFaulted hs ⟨r, hr⟩
  cases hr
  exact ⟨hk, rfl, rfl⟩

end Sys2Proof.Machine
end

section
/-! The timer phase over exact numbers (R213 to R217): one of them (O28), and any number of them (O29). -/

namespace Sys2Proof.Machine

section
variable {s : State} {ms : Rat}

/-- R213, R214: the delay accumulator after a timer phase. -/
theorem timerPhase_dta_of_exact (h : s.cfg.accFormat = .exact) :
    (timerPhase ms s).dta = max 0 (s.dta - ms * 60 / 1000) := by
  rw [timerPhase_dta, h]
  rfl

/-- R213, R215: the sound accumulator after a timer phase. -/
theorem timerPhase_sta_of_exact (h : s.cfg.accFormat = .exact) :
    (timerPhase ms s).sta = max 0 (s.sta - ms * 60 / 1000) := by
  rw [timerPhase_sta, h]
  rfl

/-- R216: the pending beep after a timer phase. -/
theorem timerPhase_beepPending_iff : (timerPhase ms s).beepPending = true ↔
    s.beepPending = true ∨ (0 < s.st.toNat ∧ (timerPhase ms s).st = 0) := by
  have hpos : 0 < s.st.toNat ↔ s.st ≠ 0 := by bv_omega
  rw [timerPhase_beepPending, Bool.or_eq_true, beeps_iff, hpos]

end

/-- The model's ceiling is Mathlib's, which the statement writes. -/
theorem int_ceil_eq_rat_ceil (q : Rat) : ⌈q⌉ = q.ceil :=
  eq_of_forall_ge_iff fun _ => Int.ceil_le.trans Rat.ceil_le_iff.symm

/-- Settles O28: the phase only lowers an accumulator, so it stays in 0..255 and the timer is its floor or ceiling. -/
theorem timerPhaseDecaysBothTimersAndBeepsOnExpiry : Obligations.TimerPhaseDecaysBothTimersAndBeepsOnExpiry := by
  intro s ms hexact hms hdta0 hdta hsta0 hsta
  have hu := timerUnits_nonneg s.cfg.accFormat hms
  have hdt := delayValue_toNat (decay_nonneg _ (timerUnits s.cfg.accFormat ms) hdta0)
    ((decay_le s.cfg.accFormat hdta0 hu).trans hdta)
  have hst := soundValue_toNat (decay_nonneg _ (timerUnits s.cfg.accFormat ms) hsta0)
    ((decay_le s.cfg.accFormat hsta0 hu).trans hsta)
  exact ⟨_, rfl, timerPhase_dta_of_exact hexact, hdt, timerPhase_sta_of_exact hexact,
    hst.trans (int_ceil_eq_rat_ceil _).symm, timerPhase_beepPending_iff, rfl⟩

/-- R217: a decay by `u` and then by `v` is one decay by their sum: where the first stops at 0, so does the one. -/
theorem max_sub_max_sub (acc u : Rat) {v : Rat} (hv : 0 ≤ v) :
    max 0 (max 0 (acc - u) - v) = max 0 (acc - (u + v)) := by
  calc max 0 (max 0 (acc - u) - v)
      = max 0 (max (0 - v) (acc - u - v)) := by rw [max_sub_sub_right]
    _ = max 0 (acc - u - v) := by rw [← max_assoc, max_eq_left (by linarith : 0 - v ≤ 0)]
    _ = max 0 (acc - (u + v)) := by rw [sub_sub]

/-- Settles O29, by induction on the elapsed times. -/
theorem decayDependsOnTheElapsedSumOnly : Obligations.DecayDependsOnTheElapsedSumOnly := by
  intro deltas
  induction deltas with
  | nil =>
    intro s _ _ hdta hsta
    simp [hdta, hsta]
  | cons d ds ih =>
    intro s hexact hd hdta hsta
    obtain ⟨-, hds⟩ := List.forall_mem_cons.mp hd
    have hsum : 0 ≤ ds.sum * 60 / 1000 := by
      have := List.sum_nonneg hds
      positivity
    obtain ⟨ihdta, ihsta⟩ := ih (timerPhase d s) hexact hds (decay_nonneg _ _ hdta) (decay_nonneg _ _ hsta)
    rw [timerPhase_dta_of_exact hexact, max_sub_max_sub _ _ hsum] at ihdta
    rw [timerPhase_sta_of_exact hexact, max_sub_max_sub _ _ hsum] at ihsta
    rw [List.foldl_cons, ihdta, ihsta, List.sum_cons, add_mul, add_div]
    exact ⟨rfl, rfl⟩

end Sys2Proof.Machine
end

section
/-! The self-jump that ends a run (R247): O56. -/

namespace Sys2Proof.Machine

/-- R111: a jump to its own address changes nothing. -/
theorem exec_jp_self {s : State} {nnn : Addr12} (h : s.pc.toNat = nnn.toNat) : exec (.jp nnn) s = .next s := by
  have hpc : zextAddr nnn = s.pc := BitVec.eq_of_toNat_eq ((zextAddr_toNat nnn).trans h.symm)
  show execJp nnn s = _
  rw [execJp, hpc]
  rfl

/-- R247: a step at the self-jump, taken where the states agree. -/
theorem step_at_end {s u : State} {ms : Rat} (h : s.Ready ms) (hend : AtEnd s) (hu : TimersAlike s u) :
    ∃ t, step u = .next t ∧ TimersAlike s t := by
  obtain ⟨nnn, hpc, hi⟩ := hend
  obtain ⟨dt, dta, st, sta, f, rfl⟩ := hu
  have ready : (s.withTimers dt dta st sta f).Ready ms := { h with }
  have holds : (s.withTimers dt dta st sta f).Holds (encode (.jp nnn)) := { hi with }
  exact ⟨_, ready.step_of_exec rfl holds (exec_jp_self hpc) ready.not_isFaulted, _, _, _, _, _, rfl⟩

theorem TimersAlike.status_eq {s u : State} (h : TimersAlike s u) : u.status = s.status := by
  obtain ⟨dt, dta, st, sta, f, rfl⟩ := h
  rfl

/-- Settles O56: `run_of_steps` with the frame of the timers, which keeps the status. -/
theorem selfJumpKeepsEverythingButTheTimers : Obligations.SelfJumpKeepsEverythingButTheTimers := by
  intro s ms k h hend
  obtain ⟨t, hrun, ht⟩ := run_of_steps (P := fun _ u => TimersAlike s u) (fun _ _ => step_at_end h hend) (.refl s) k
  have hsafe : ¬ t.isFaulted := fun ⟨r, hr⟩ => h.not_isFaulted ⟨r, ht.status_eq.symm.trans hr⟩
  exact ⟨⟨t, hrun, hsafe⟩, t, hrun, ht.eq⟩

end Sys2Proof.Machine
end

section
/-! The host's turn before a step (R245): O41; and the ROM sizes that `load_rom` rejects (R243): O55. -/

namespace Sys2Proof.Machine

/-! ## The sizes of a ROM -/

section
variable {rom : List Byte} {s : State}

theorem loadRom_of_short (h : rom.length < 2) : loadRom rom s = .error (.romTooShort rom.length) := if_pos h

theorem loadRom_of_large (h2 : 2 ≤ rom.length) (h : romRoom s.cfg < rom.length) :
    loadRom rom s = .error (.romTooLarge rom.length (romRoom s.cfg)) := by
  rw [loadRom, if_neg (Nat.not_lt.mpr h2), if_pos h]

end

/-- Settles O55: the three answers of `load_rom`. -/
theorem loadRomRejectsWrongSizes : Obligations.LoadRomRejectsWrongSizes :=
  fun _ _ => ⟨fun h2 hroom => ⟨_, loadRom_of_fits h2 hroom⟩, loadRom_of_short, loadRom_of_large⟩

/-! ## The turn and the step -/

section
variable {s t : State} {turn : HostTurn} {rest : List HostTurn}

/-- R245: a turn that waits is taken, and its `load_rom` comes first. -/
theorem hostTurn_of_load (ht : s.hostTurns = turn :: rest)
    (hl : loadIfAsked turn.rom { s with hostTurns := rest } = .ok t) : hostTurn s = .ok (t.hostSettings turn) := by
  rw [hostTurn, ht]
  dsimp only
  rw [applyTurn, hl]

theorem hostTurn_of_load_error {e : LoadError} (ht : s.hostTurns = turn :: rest)
    (hl : loadIfAsked turn.rom { s with hostTurns := rest } = .error e) : hostTurn s = .error e := by
  rw [hostTurn, ht]
  dsimp only
  rw [applyTurn, hl]

theorem step_of_hostTurn_ok (hs : ¬ s.isFaulted) (ht : hostTurn s = .ok t) : step s = engineStep exec t := by
  unfold step cycle
  rw [ht]
  split
  · exact absurd ⟨_, ‹_›⟩ hs
  · rfl
  · rfl

/-- R207, R243: a failed load is fatal. -/
theorem step_of_hostTurn_error {e : LoadError} (hs : ¬ s.isFaulted) (ht : hostTurn s = .error e) :
    step s = .fault (.loadFailed e) := by
  unfold step cycle
  rw [ht]
  split
  · exact absurd ⟨_, ‹_›⟩ hs
  · rfl
  · rfl

end

/-- Settles O41: the three answers of the turn's load; after the first two the engine steps from the turn's settings. -/
theorem hostTurnComesBeforeTheStep : Obligations.HostTurnComesBeforeTheStep := by
  intro s turn rest ht hs
  refine ⟨fun hrom => ?_, fun rom l hrom hl => ?_, fun rom e hrom hl => ?_⟩
  · have hload : loadIfAsked turn.rom { s with hostTurns := rest } = .ok { s with hostTurns := rest } := by
      rw [hrom]
      rfl
    exact step_of_hostTurn_ok hs (hostTurn_of_load ht hload)
  · have hload : loadIfAsked turn.rom { s with hostTurns := rest } = .ok l := by rw [hrom]; exact hl
    have hstep := step_of_hostTurn_ok hs (hostTurn_of_load ht hload)
    obtain ⟨-, rfl⟩ := loadRom_ok hl
    exact ⟨rfl, rfl, hstep⟩
  · have hload : loadIfAsked turn.rom { s with hostTurns := rest } = .error e := by rw [hrom]; exact hl
    exact step_of_hostTurn_error hs (hostTurn_of_load_error ht hload)

end Sys2Proof.Machine
end
